-- ==== Sys2Proof/Word.lean ====
section
/-! DEFINITION. The word types of MBC and nothing more (spec/00_scope.md R5, R6): every value is an unsigned
bit vector of a fixed width. -/

namespace Sys2Proof

/-- An 8-bit value: a wire byte, a device address, a function code, an opcode. -/
abbrev Byte := BitVec 8

/-- A 16-bit value: a Modbus register address, count or value, a CRC, STATUS. -/
abbrev Half := BitVec 16

/-- A 64-bit command word (R70). -/
abbrev Word := BitVec 64

end Sys2Proof
end

