-- ==== Sys2Proof/Config.lean ====
section
/-! DEFINITION. What an implementation of MBC fixes (spec/00_scope.md R5). The one open parameter is `P_IBUF_CAP`;
every other capacity is fixed by the spec. There is no free value: the spec leaves no result undefined. -/

namespace Sys2Proof

/-- The parameters of one MBC (R5): `ibufCap` is `P_IBUF_CAP`, the capacity of IBUF in bytes. The model carries it
in the state as a constant (notes/assumptions/1.md), so a statement about every state holds for every capacity. -/
structure Config where
  ibufCap : Nat
  deriving DecidableEq, Repr

/-- R5: "Constraint 5 <= P_IBUF_CAP <= 65535". -/
abbrev Config.Legal (c : Config) : Prop := 5 ≤ c.ibufCap ∧ c.ibufCap ≤ 65535

/-- R5: "Reference value 256, used by every test vector". -/
def Config.reference : Config := { ibufCap := 256 }

/-- R5, R35: `P_RVAL_CAP` = floor((`P_IBUF_CAP` - 5) / 2). -/
def Config.rvalCap (c : Config) : Nat := (c.ibufCap - 5) / 2

/-- R5, R33: WDATA holds 127 words. -/
abbrev Config.wdataCap : Nat := 127

/-- R5, R34: OBUF holds 263 bytes, the longest 0x10 frame. -/
abbrev Config.obufCap : Nat := 263

/-- R5, R131: device addresses 0 to 247 are accepted. -/
abbrev Config.maxDevice : Byte := 247

end Sys2Proof
end

