-- ==== Sys2Proof/Syntax.lean ====
section
/-! DEFINITION. The twelve commands of spec/opcode_table.json, one constructor each, with the operands that
spec/30_encoding.md R77 assembles from the command word. -/

namespace Sys2Proof

/-- One MBC command. Operands have exactly the widths of their fields (R71), so none can be out of its field. -/
inductive Instr where
  /-- NOP (R181). -/
  | nop
  /-- CRC.INIT (R103). -/
  | crcInit
  /-- CRC.UPDATE b (R104). -/
  | crcUpdate (b : Byte)
  /-- CRC.BLOCK (R105). -/
  | crcBlock
  /-- BUILD.RD dev, reg, count (R125). -/
  | buildRd (dev : Byte) (reg : Half) (count : Half)
  /-- BUILD.RD.DEF dev, reg (R126). -/
  | buildRdDef (dev : Byte) (reg : Half)
  /-- BUILD.WS dev, reg, value (R127). -/
  | buildWs (dev : Byte) (reg : Half) (value : Half)
  /-- BUILD.WM dev, reg, count (R128). -/
  | buildWm (dev : Byte) (reg : Half) (count : Half)
  /-- BUILD.WM.IMP dev, reg (R129). -/
  | buildWmImp (dev : Byte) (reg : Half)
  /-- PARSE.RD (R151). -/
  | parseRd
  /-- PARSE.WS (R152). -/
  | parseWs
  /-- PARSE.WM (R153). -/
  | parseWm
  deriving DecidableEq, Repr

end Sys2Proof
end

