-- ==== Sys2Proof/Decode.lean ====
section
/-! DEFINITION. The command word (spec/30_encoding.md R70 to R77): its fields, the decoder, total on every 64-bit word
and rejecting by name, and after it the encoder. -/

namespace Sys2Proof

/-- The families of spec/43_control.md R180, by which a failing command's effects are chosen. -/
inductive Family where
  /-- NOP, a reserved OP, CRC.INIT, CRC.UPDATE, CRC.BLOCK: STATUS only. -/
  | plain
  /-- Every BUILD form and an invalid FC of BUILD: R124. -/
  | build
  /-- Every PARSE form and an invalid FC of PARSE: R156. -/
  | parse
  deriving DecidableEq, Repr

/-- Why a word is no command. Each completes with InvalidCommand and its family's failure effects (R180). -/
inductive Reject where
  /-- R72, R182: OP is not 0x00, 0x01, 0x02, 0x03, 0x10 or 0x20. -/
  | reservedOp (op : Byte)
  /-- R73, R74, R130, R154: FC of a BUILD or PARSE is not 0x03, 0x06 or 0x10. -/
  | functionCode (family : Family) (fc : Byte)
  /-- R75: the reserved bits `bits` of the form are set. -/
  | reservedBits (family : Family) (bits : Word)
  deriving DecidableEq, Repr

/-- The family whose failure effects a rejected word has (R180). -/
def rejectFamily : Reject → Family
  | .reservedOp _ => .plain
  | .functionCode family _ => family
  | .reservedBits family _ => family

/-! ## Fields (R71, R77) -/

/-- OP = w[7:0]. -/
def opField (w : Word) : Byte := w.extractLsb' 0 8

/-- FC = w[15:8]. -/
def fcField (w : Word) : Byte := w.extractLsb' 8 8

/-- B = w[15:8], the data byte of CRC.UPDATE. -/
def byteField (w : Word) : Byte := w.extractLsb' 8 8

/-- DEV = w[23:16]. -/
def devField (w : Word) : Byte := w.extractLsb' 16 8

/-- CP = w[24]. -/
def cpField (w : Word) : Bool := w.getLsbD 24

/-- REG = w[47:32]. -/
def regField (w : Word) : Half := w.extractLsb' 32 16

/-- ARG = w[63:48]. -/
def argField (w : Word) : Half := w.extractLsb' 48 16

/-! ## Reserved-zero masks (R75) -/

/-- NOP, CRC.INIT, CRC.BLOCK: bits [63:8]. -/
def maskN : Word := 0xFFFFFFFFFFFFFF00

/-- CRC.UPDATE: bits [63:16]. -/
def maskU : Word := 0xFFFFFFFFFFFF0000

/-- BUILD.RD, BUILD.WM (CP = 1): bits [31:25]. -/
def maskCounted : Word := 0x00000000FE000000

/-- BUILD.RD.DEF, BUILD.WM.IMP (CP = 0): bits [63:48] and [31:25]. -/
def maskUncounted : Word := 0xFFFF0000FE000000

/-- BUILD.WS: bits [31:24]. -/
def maskWs : Word := 0x00000000FF000000

/-- PARSE.RD, PARSE.WS, PARSE.WM: bits [63:16]. -/
def maskP : Word := 0xFFFFFFFFFFFF0000

/-! ## The decoder -/

/-- R75: the form's instruction if its reserved bits are all zero. -/
def unlessReserved (family : Family) (mask w : Word) (i : Instr) : Except Reject Instr :=
  if w &&& mask = 0 then .ok i else .error (.reservedBits family (w &&& mask))

/-- R73: BUILD, decoded further by FC and CP. The FC is checked before the reserved bits (R203). -/
def decodeBuild (w : Word) : Except Reject Instr :=
  if fcField w = 0x03 then
    if cpField w then
      unlessReserved .build maskCounted w (.buildRd (devField w) (regField w) (argField w))
    else
      unlessReserved .build maskUncounted w (.buildRdDef (devField w) (regField w))
  else if fcField w = 0x06 then
    unlessReserved .build maskWs w (.buildWs (devField w) (regField w) (argField w))
  else if fcField w = 0x10 then
    if cpField w then
      unlessReserved .build maskCounted w (.buildWm (devField w) (regField w) (argField w))
    else
      unlessReserved .build maskUncounted w (.buildWmImp (devField w) (regField w))
  else .error (.functionCode .build (fcField w))

/-- R74: PARSE, decoded further by FC. -/
def decodeParse (w : Word) : Except Reject Instr :=
  if fcField w = 0x03 then unlessReserved .parse maskP w .parseRd
  else if fcField w = 0x06 then unlessReserved .parse maskP w .parseWs
  else if fcField w = 0x10 then unlessReserved .parse maskP w .parseWm
  else .error (.functionCode .parse (fcField w))

/-- R72, R180: the opcode field selects the command. -/
def decode (w : Word) : Except Reject Instr :=
  if opField w = 0x00 then unlessReserved .plain maskN w .nop
  else if opField w = 0x01 then unlessReserved .plain maskN w .crcInit
  else if opField w = 0x02 then unlessReserved .plain maskU w (.crcUpdate (byteField w))
  else if opField w = 0x03 then unlessReserved .plain maskN w .crcBlock
  else if opField w = 0x10 then decodeBuild w
  else if opField w = 0x20 then decodeParse w
  else .error (.reservedOp (opField w))

/-- The word of a table row's `nbits` bits `w`, bit 0 the least significant, zero above them. A command word is one
64-bit bus write (R70), so it has no byte order of its own (notes/assumptions/4.md). -/
def tableWord (nbits w : Nat) : Word := BitVec.ofNat 64 (w % 2 ^ nbits)

/-- The host's view of the decoder. -/
def decodeTableWord (nbits w : Nat) : Option Instr :=
  match decode (tableWord nbits w) with
  | .ok i => some i
  | .error _ => none

/-! ## The encoder (R71, R88) -/

/-- Format N: OP alone. -/
def encodeN (op : Byte) : Word := op.setWidth 64

/-- Formats U and P: a byte at [15:8] above OP. -/
def encodeByte (op b : Byte) : Word := op.setWidth 64 ||| b.setWidth 64 <<< 8

/-- Format B: ARG, REG, CP, DEV, FC, OP. -/
def encodeB (fc dev : Byte) (cp : Bool) (reg arg : Half) : Word :=
  (0x10 : Word) ||| fc.setWidth 64 <<< 8 ||| dev.setWidth 64 <<< 16 ||| (BitVec.ofBool cp).setWidth 64 <<< 24
    ||| reg.setWidth 64 <<< 32 ||| arg.setWidth 64 <<< 48

/-- R88: the command word each mnemonic assembles to. -/
def encode : Instr → Word
  | .nop => encodeN 0x00
  | .crcInit => encodeN 0x01
  | .crcUpdate b => encodeByte 0x02 b
  | .crcBlock => encodeN 0x03
  | .buildRd dev reg count => encodeB 0x03 dev true reg count
  | .buildRdDef dev reg => encodeB 0x03 dev false reg 0
  | .buildWs dev reg value => encodeB 0x06 dev false reg value
  | .buildWm dev reg count => encodeB 0x10 dev true reg count
  | .buildWmImp dev reg => encodeB 0x10 dev false reg 0
  | .parseRd => encodeByte 0x20 0x03
  | .parseWs => encodeByte 0x20 0x06
  | .parseWm => encodeByte 0x20 0x10

end Sys2Proof
end

