-- ==== Sys2Proof/Machine/State.lean ====
section
/-! DEFINITION. The state of MBC (spec/10_state.md R20 to R41) as plain data, the host actions that drive it
(spec/20_memory.md R51), the reasons a step can stop (spec/60_exceptions.md R210), and the state after reset (R38). -/

namespace Sys2Proof.Machine

/-! ## Names of the registers and buffers (R20) -/

/-- The seven host-visible registers. -/
inductive Reg where
  | cmd | status | crc | ilen | wcount | olen | rcount
  deriving DecidableEq, Repr

/-- The four buffers, each an address space of its own (R50). -/
inductive Buffer where
  | ibuf | wdata | obuf | rval
  deriving DecidableEq, Repr

/-! ## What the outside world can do -/

/-- The four host access operations (R51). Numbers are the host's own, so that a value or an index that does not fit
can be written down; R52 refuses those. -/
inductive HostAccess where
  | writeReg (r : Reg) (v : Nat)
  | readReg (r : Reg)
  | writeBuf (b : Buffer) (i v : Nat)
  | readBuf (b : Buffer) (i : Nat)
  deriving DecidableEq, Repr

/-- One action of a run (R185): an access by MBC's host, the reset input (R230), or an access by a second agent (R65). -/
inductive Event where
  | access (a : HostAccess)
  | reset
  | secondAgent (a : HostAccess)
  deriving DecidableEq, Repr

/-- What a host read returns, at the width of what was read (R58). -/
inductive Reply where
  | bits64 (v : Word)
  | bits16 (v : Half)
  | bits8 (v : Byte)
  deriving DecidableEq, Repr

/-! ## Why a step can stop -/

/-- The model faults of R210. -/
inductive Fault where
  /-- `UnwrittenRead(B, i)`: raised by a host read, by CRC.BLOCK, BUILD.WM, BUILD.WM.IMP and the PARSE commands on the first
  element they read that holds no value (R53). The spec itself stops here, so it is safe. -/
  | unwrittenRead (b : Buffer) (i : Nat)
  deriving DecidableEq, Repr

/-- The refusals of R210, and the host's name for an instruction that has no meaning yet. -/
inductive Refusal where
  /-- Raised by an arm of `exec` for an instruction without a meaning; no arm does so in this model. Safe. -/
  | notModelled (mnemonic : String)
  /-- `HostViolation`: raised by the host accesses that R52 lists. The spec gives them no meaning, so it is safe. -/
  | hostViolation
  /-- `MultiHost`: raised by an access of a second agent (R65). The spec gives it no meaning, so it is safe. -/
  | multiHost
  deriving DecidableEq, Repr

/-! ## Buffers -/

/-- A buffer's elements that hold a value, as (index, value) pairs with strictly rising indices; an index that is not
listed holds no value (R36). -/
abbrev Cells (width : Nat) := List (Nat × BitVec width)

/-- The four buffers (R32 to R35). -/
structure Memory where
  ibuf : Cells 8
  wdata : Cells 16
  obuf : Cells 8
  rval : Cells 16
  deriving DecidableEq, Repr

/-- After reset no element holds a value (R36). -/
def Memory.empty : Memory := { ibuf := [], wdata := [], obuf := [], rval := [] }

/-! ## The state -/

/-- R20: exactly the seven registers, the four buffers with each element's has-a-value mark, and the model's fault and
refusal marks (R37). After these come the run's parameters (R40), which no step changes: the capacity and the
host's sequence of actions; and the host's side of the run: the index into that sequence (R22) and the values its
reads returned. -/
structure State where
  cmd : Word
  status : Half
  crc : Half
  ilen : Half
  wcount : Byte
  olen : Half
  rcount : Half
  mem : Memory
  faultMark : Option Fault
  refusalMark : Option Refusal
  cfg : Config
  script : List Event
  pc : Nat
  /-- The values returned to the host, the latest first. -/
  replies : List Reply
  deriving DecidableEq, Repr

/-- The reset values of R38 and R230, for the reference capacity of R5. The marks are empty (R37), no host action is
loaded and none has been taken (notes/assumptions/2.md). -/
def State.reset : State where
  cmd := 0
  status := 0x0000
  crc := 0xFFFF
  ilen := 0
  wcount := 0
  olen := 0
  rcount := 0
  mem := Memory.empty
  faultMark := none
  refusalMark := none
  cfg := Config.reference
  script := []
  pc := 0
  replies := []

end Sys2Proof.Machine
end

