-- ==== Sys2Proof/Machine/Flags.lean ====
section
/-! DEFINITION. STATUS (spec/10_state.md R24, R25; spec/60_exceptions.md R200): result kinds, error kinds and the value
each outcome writes. MBC has no other flags. -/

namespace Sys2Proof.Machine

/-- R24 RES of a command that did not fail. -/
inductive Result where
  | none | crc | frame | success | values
  deriving DecidableEq, Repr

/-- R24 ERR, R200. ConnectionFailed is reserved and never produced (R209). -/
inductive ErrorKind where
  | invalidCommand | invalidResponse | crcCheckFailed | connectionFailed
  deriving DecidableEq, Repr

/-- R24: the numbers of RES. -/
def resultCode : Result → BitVec 3
  | .none => 0
  | .crc => 1
  | .frame => 2
  | .success => 3
  | .values => 4

/-- R24: RES = ERROR. -/
def errorResultCode : BitVec 3 := 7

/-- R24: the numbers of ERR. -/
def errorCode : ErrorKind → BitVec 3
  | .invalidCommand => 1
  | .invalidResponse => 2
  | .crcCheckFailed => 3
  | .connectionFailed => 4

/-- R24: ERR in [10:8], RES in [2:0], every other bit 0. -/
def statusWord (res err : BitVec 3) : Half := res.setWidth 16 ||| err.setWidth 16 <<< 8

/-- R8 `finish K`. -/
def successStatus (k : Result) : Half := statusWord (resultCode k) 0

/-- R201: ERR = code(E), RES = 7. -/
def errorStatus (e : ErrorKind) : Half := statusWord errorResultCode (errorCode e)

/-- STATUS.RES = STATUS[2:0]. -/
def resField (v : Half) : BitVec 3 := v.extractLsb' 0 3

/-- STATUS.ERR = STATUS[10:8]. -/
def errField (v : Half) : BitVec 3 := v.extractLsb' 8 3

end Sys2Proof.Machine
end

