-- ==== Sys2Proof/Machine/Operands.lean ====
section
/-! DEFINITION. The operands of the commands: buffer elements (R36, R53), byte order (spec/20_memory.md R54, R55), the CRC
of a byte sequence (spec/40_crc.md R100, R101, R107), and the payloads of the BUILD forms (spec/41_build.md R122, R125 to
R129). -/

namespace Sys2Proof.Machine

/-! ## Buffer elements -/

/-- The value element `i` holds, if it holds one. -/
def readCell {width : Nat} : Cells width → Nat → Option (BitVec width)
  | [], _ => none
  | (j, v) :: rest, i => if i = j then some v else readCell rest i

/-- B[i] <- v: afterwards element `i` holds `v` (R51). The pairs stay in rising order. -/
def writeCell {width : Nat} : Cells width → Nat → BitVec width → Cells width
  | [], i, v => [(i, v)]
  | (j, x) :: rest, i, v =>
    if i < j then (i, v) :: (j, x) :: rest
    else if i = j then (i, v) :: rest
    else (j, x) :: writeCell rest i v

/-- R8 `MemWrite(B:i, len(vs), vs)`. -/
def writeCells {width : Nat} : Cells width → Nat → List (BitVec width) → Cells width
  | c, _, [] => c
  | c, i, v :: vs => writeCells (writeCell c i v) (i + 1) vs

/-- R8 `invalidate(B, k)`: elements `k` and above hold no value. -/
def invalidateFrom {width : Nat} (c : Cells width) (k : Nat) : Cells width :=
  c.filter (fun cell => cell.1 < k)

/-- R8 `MemRead(B:i, n)`: the `n` elements from `i`, or the index of the first that holds no value (R53). -/
def readCells {width : Nat} (c : Cells width) : Nat → Nat → Except Nat (List (BitVec width))
  | _, 0 => .ok []
  | i, n + 1 =>
    match readCell c i with
    | none => .error i
    | some v =>
      match readCells c (i + 1) n with
      | .error j => .error j
      | .ok vs => .ok (v :: vs)

/-- The canonical form of a buffer: indices strictly rising. -/
def cellsWf {width : Nat} : Cells width → Bool
  | [] => true
  | [_] => true
  | (i, _) :: (j, y) :: rest => decide (i < j) && cellsWf ((j, y) :: rest)

/-- The canonical form of memory: every buffer's. Equal contents are then equal data. -/
def Memory.wf (m : Memory) : Bool := cellsWf m.ibuf && cellsWf m.wdata && cellsWf m.obuf && cellsWf m.rval

/-- The model's read of one element of one buffer, at that buffer's width. -/
def Memory.read (m : Memory) : Buffer → Nat → Option Reply
  | .ibuf, i => (readCell m.ibuf i).map .bits8
  | .wdata, i => (readCell m.wdata i).map .bits16
  | .obuf, i => (readCell m.obuf i).map .bits8
  | .rval, i => (readCell m.rval i).map .bits16

/-- R50: how many elements a buffer has. -/
def bufferCap (cfg : Config) : Buffer → Nat
  | .ibuf => cfg.ibufCap
  | .wdata => Config.wdataCap
  | .obuf => Config.obufCap
  | .rval => cfg.rvalCap

/-! ## Byte order -/

/-- R54, R121: the high byte first. -/
def be16 (v : Half) : List Byte := [v.extractLsb' 8 8, v.extractLsb' 0 8]

/-- R151: the value whose high byte is `hi` and low byte is `lo`. -/
def halfOfBytes (hi lo : Byte) : Half := hi.setWidth 16 <<< 8 ||| lo.setWidth 16

/-- R122: every value's `be16`, in list order. -/
def pack : List Half → List Byte
  | [] => []
  | v :: vs => be16 v ++ pack vs

/-- R151: bytes paired into big-endian values in wire order. A last byte without a partner has no value; the caller
checks that there is none. -/
def pairValues : List Byte → List Half
  | hi :: lo :: rest => halfOfBytes hi lo :: pairValues rest
  | [_] => []
  | [] => []

/-! ## The CRC engine's primitives -/

/-- R100: one of the eight steps. The test of bit 0 is made before the logical shift. -/
def crcShift (c : Half) : Half := if c.getLsbD 0 then (c >>> 1) ^^^ 0xA001 else c >>> 1

/-- R100: `n` steps. -/
def crcShifts : Nat → Half → Half
  | 0, c => c
  | n + 1, c => crcShifts n (crcShift c)

/-- R100 `CrcStep(c, b)`. -/
def crcStep (c : Half) (b : Byte) : Half := crcShifts 8 (c ^^^ b.setWidth 16)

/-- R101: CrcStep over the bytes in order, from the accumulator `c`. -/
def crcFrom (c : Half) : List Byte → Half
  | [] => c
  | b :: bs => crcFrom (crcStep c b) bs

/-- R101: the initial accumulator. -/
def crcInitial : Half := 0xFFFF

/-- R101 `Crc16(s)`. -/
def crc16 (bytes : List Byte) : Half := crcFrom crcInitial bytes

/-- R55, R107: the wire form of a CRC, low byte first. -/
def crcBytes (c : Half) : List Byte := [c.extractLsb' 0 8, c.extractLsb' 8 8]

/-- R107: the CRC received as the bytes `lo`, `hi`. -/
def crcOfBytes (lo hi : Byte) : Half := lo.setWidth 16 ||| hi.setWidth 16 <<< 8

/-! ## Payloads of the BUILD forms (R120 `Payload`) -/

/-- What the `Payload` step gives: bytes, InvalidCommand, or a read of the WDATA element `i` that holds no value. -/
inductive Payload where
  | bytes (p : List Byte)
  | invalid
  | unwritten (i : Nat)
  deriving DecidableEq, Repr

/-- R125: the read count, which must be at least 1. -/
def readPayload (count : Half) : Payload :=
  if count = 0 then .invalid else .bytes (be16 count)

/-- R126, R77: "default 1 if unspecified". -/
def defaultReadPayload : Payload := .bytes (be16 0x0001)

/-- R127: the single value. -/
def singlePayload (value : Half) : Payload := .bytes (be16 value)

/-- R128, R129: register count, byte count and packed values of a value list. -/
def listBytes (n : Nat) (vals : List Half) : List Byte :=
  be16 (BitVec.ofNat 16 n) ++ [BitVec.ofNat 8 (2 * n)] ++ pack vals

/-- R128, R129: the value list is WDATA[0..WCOUNT). An explicit count must be WCOUNT; without one the count is WCOUNT
(R77). Every InvalidCommand check comes before WDATA is read. -/
def listPayload (count : Option Half) (s : State) : Payload :=
  if s.wcount.toNat = 0 then .invalid
  else if s.wcount.toNat > Config.wdataCap then .invalid
  else if count.any (fun c => c.toNat ≠ s.wcount.toNat) then .invalid
  else
    match readCells s.mem.wdata 0 s.wcount.toNat with
    | .error i => .unwritten i
    | .ok vals => .bytes (listBytes s.wcount.toNat vals)

end Sys2Proof.Machine
end

