-- ==== Sys2Proof/Machine/Ops.lean ====
section
/-! DEFINITION. The operations the meanings are built from: named writes of each register and buffer (R8 `R <- v`,
`MemWrite`, `invalidate`), ending a command by `finish` or `raise` (R8, R201), the BUILD and PARSE pipelines
(R120, R150), and the reset input (R230). MBC has no trap entry and no trap return (R206, R207): `raise` is the one
shared form of every error. -/

namespace Sys2Proof.Machine

/-! ## Named writes -/

/-- CMD <- w (R23). -/
def latchCmd (w : Word) (s : State) : State := { s with cmd := w }

/-- STATUS <- v (R24). -/
def setStatus (v : Half) (s : State) : State := { s with status := v }

/-- CRC <- c (R27). -/
def setCrc (c : Half) (s : State) : State := { s with crc := c }

/-- ILEN <- v (R28). -/
def setIlen (v : Half) (s : State) : State := { s with ilen := v }

/-- WCOUNT <- v (R29). -/
def setWcount (v : Byte) (s : State) : State := { s with wcount := v }

/-- IBUF[i] <- v (R32). -/
def setIbuf (i : Nat) (v : Byte) (s : State) : State :=
  { s with mem := { s.mem with ibuf := writeCell s.mem.ibuf i v } }

/-- WDATA[i] <- v (R33). -/
def setWdata (i : Nat) (v : Half) (s : State) : State :=
  { s with mem := { s.mem with wdata := writeCell s.mem.wdata i v } }

/-- R34: OBUF[0..len(f)) holds `f`, no later element holds a value, and OLEN is its length. -/
def storeFrame (f : List Byte) (s : State) : State :=
  { s with
    mem := { s.mem with obuf := invalidateFrom (writeCells s.mem.obuf 0 f) f.length }
    olen := BitVec.ofNat 16 f.length }

/-- R124: OLEN <- 0 and no element of OBUF holds a value. -/
def dropFrame (s : State) : State :=
  { s with mem := { s.mem with obuf := invalidateFrom s.mem.obuf 0 }, olen := 0 }

/-- R35: RVAL[0..len(vs)) holds `vs`, no later element holds a value, and RCOUNT is the number of values. -/
def storeValues (vs : List Half) (s : State) : State :=
  { s with
    mem := { s.mem with rval := invalidateFrom (writeCells s.mem.rval 0 vs) vs.length }
    rcount := BitVec.ofNat 16 vs.length }

/-- R156: RCOUNT <- 0 and no element of RVAL holds a value. -/
def dropValues (s : State) : State :=
  { s with mem := { s.mem with rval := invalidateFrom s.mem.rval 0 }, rcount := 0 }

/-- The host receives what its read returned (R51). Nothing of MBC changes. -/
def giveReply (r : Reply) (s : State) : State := { s with replies := r :: s.replies }

/-- R22: the index into the host's sequence advances by one. -/
def advancePc (s : State) : State := { s with pc := s.pc + 1 }

/-- R37: the fault mark is set by the first fault and kept. -/
def markFault (f : Fault) (s : State) : State := { s with faultMark := s.faultMark.or (some f) }

/-- R37: a refusal is recorded in the same way. -/
def markRefusal (r : Refusal) (s : State) : State := { s with refusalMark := s.refusalMark.or (some r) }

/-! ## Ending a command -/

/-- R8 `finish K`: STATUS.RES <- K and STATUS.ERR <- 0. -/
def finish (k : Result) (s : State) : State := setStatus (successStatus k) s

/-- R180: what a `raise` does besides STATUS, by family. -/
def failureEffects : Family → State → State
  | .plain, s => s
  | .build, s => dropFrame s
  | .parse, s => dropValues s

/-- R8 `raise E`, R201: the family's failure effects and STATUS <- (ERR = code(E), RES = 7). -/
def raise (family : Family) (e : ErrorKind) (s : State) : State :=
  setStatus (errorStatus e) (failureEffects family s)

/-! ## The BUILD pipeline (R120) -/

/-- R123 `Emit(body)`: the frame is the body and its CRC, low byte first. -/
def emit (body : List Byte) (s : State) : State :=
  finish .frame (setCrc (crc16 body) (storeFrame (body ++ crcBytes (crc16 body)) s))

/-- R120 after decoding: the device check, the payload, the frame. The FC and reserved-bit checks are the decoder's. -/
def buildWith (dev fc : Byte) (reg : Half) (payload : Payload) (s : State) : Host.Outcome State Fault Refusal :=
  if dev > Config.maxDevice then .next (raise .build .invalidCommand s)
  else
    match payload with
    | .invalid => .next (raise .build .invalidCommand s)
    | .unwritten i => .fault (.unwrittenRead .wdata i)
    | .bytes p => .next (emit ([dev, fc] ++ be16 reg ++ p) s)

/-! ## The PARSE pipeline (R150) -/

/-- R150 check 3: the CRC over the bytes before the trailing two, which are read low byte first. The CRC register is
written once the check is reached; a mismatch is CrcCheckFailed. -/
def checkCrc (n : Nat) (decodeFrame : List Byte → State → State) (s : State) : Host.Outcome State Fault Refusal :=
  match readCells s.mem.ibuf 0 (n - 2) with
  | .error i => .fault (.unwrittenRead .ibuf i)
  | .ok body =>
    match readCell s.mem.ibuf (n - 2), readCell s.mem.ibuf (n - 1) with
    | none, _ => .fault (.unwrittenRead .ibuf (n - 2))
    | some _, none => .fault (.unwrittenRead .ibuf (n - 1))
    | some lo, some hi =>
      if crcOfBytes lo hi = crc16 body then .next (decodeFrame body (setCrc (crc16 body) s))
      else .next (raise .parse .crcCheckFailed (setCrc (crc16 body) s))

/-- R150 after decoding: check 1 (length), check 2 (function-code echo), check 3, then the command's own decode of the
body (the bytes before the CRC). -/
def parseWith (fc : Byte) (decodeFrame : List Byte → State → State) (s : State) :
    Host.Outcome State Fault Refusal :=
  if s.ilen.toNat < 5 then .next (raise .parse .invalidResponse s)
  else
    match readCell s.mem.ibuf 1 with
    | none => .fault (.unwrittenRead .ibuf 1)
    | some echo =>
      if echo = fc then checkCrc s.ilen.toNat decodeFrame s
      else .next (raise .parse .invalidResponse s)

/-- R151: the value field is what follows address, function code and ByteCount; of odd length it is InvalidResponse,
otherwise its bytes are paired in wire order. -/
def decodeReadResponse (body : List Byte) (s : State) : State :=
  if (body.length - 3) % 2 = 1 then raise .parse .invalidResponse s
  else finish .values (storeValues (pairValues (body.drop 3)) s)

/-- R152, R153: a write response has no values. -/
def decodeWriteResponse (_body : List Byte) (s : State) : State :=
  finish .success (dropValues s)

/-! ## The reset input (R230) -/

/-- Every register takes its reset value and no buffer element holds a value. The fault and refusal marks are kept
(R37), as are the run's parameters and the host's side of the run, which are not MBC's state (R40). -/
def applyReset (s : State) : State :=
  { State.reset with
    faultMark := s.faultMark
    refusalMark := s.refusalMark
    cfg := s.cfg
    script := s.script
    pc := s.pc
    replies := s.replies }

/-! ## The host's sequence of actions (R22, R185) -/

/-- `e` as the action at index `n` of the sequence. An index past the end is reached by NOP commands. -/
def placeEvent : List Event → Nat → Event → List Event
  | [], 0, e => [e]
  | _ :: es, 0, e => e :: es
  | [], n + 1, e => .access (.writeReg .cmd 0) :: placeEvent [] n e
  | x :: es, n + 1, e => x :: placeEvent es n e

end Sys2Proof.Machine
end

