-- ==== Sys2Proof/Machine/Build.lean ====
section
/-! DEFINITION. The frame builder's commands (spec/41_build.md R125 to R129): each is the pipeline of R120 with its own
function code and payload. -/

namespace Sys2Proof.Machine

/-- R125: a 0x03 request with an explicit count. -/
def execBuildRd (dev : Byte) (reg count : Half) (s : State) : Host.Outcome State Fault Refusal :=
  buildWith dev 0x03 reg (readPayload count) s

/-- R126: a 0x03 request with the count unspecified. -/
def execBuildRdDef (dev : Byte) (reg : Half) (s : State) : Host.Outcome State Fault Refusal :=
  buildWith dev 0x03 reg defaultReadPayload s

/-- R127: a 0x06 request. -/
def execBuildWs (dev : Byte) (reg value : Half) (s : State) : Host.Outcome State Fault Refusal :=
  buildWith dev 0x06 reg (singlePayload value) s

/-- R128: a 0x10 request with an explicit count. -/
def execBuildWm (dev : Byte) (reg count : Half) (s : State) : Host.Outcome State Fault Refusal :=
  buildWith dev 0x10 reg (listPayload (some count) s) s

/-- R129: a 0x10 request whose count is the length of the value list. -/
def execBuildWmImp (dev : Byte) (reg : Half) (s : State) : Host.Outcome State Fault Refusal :=
  buildWith dev 0x10 reg (listPayload none s) s

end Sys2Proof.Machine
end

