-- ==== Sys2Proof/Machine/Control.lean ====
section
/-! DEFINITION. The NOP (spec/43_control.md R181). MBC has no control-transfer, system or privileged command (R183, R184). -/

namespace Sys2Proof.Machine

/-- R181: no effect; not even STATUS is written. -/
def execNop (s : State) : Host.Outcome State Fault Refusal := .next s

end Sys2Proof.Machine
end

