-- ==== Sys2Proof/Machine/Crc.lean ====
section
/-! DEFINITION. The CRC engine's commands (spec/40_crc.md R103 to R105). -/

namespace Sys2Proof.Machine

/-- R103: CRC <- 0xFFFF. -/
def execCrcInit (s : State) : Host.Outcome State Fault Refusal :=
  .next (finish .crc (setCrc crcInitial s))

/-- R104: CRC <- CrcStep(CRC, b). -/
def execCrcUpdate (b : Byte) (s : State) : Host.Outcome State Fault Refusal :=
  .next (finish .crc (setCrc (crcStep s.crc b) s))

/-- R105: CRC <- Crc16(IBUF[0..ILEN)). An element that holds no value faults before CRC is written. -/
def execCrcBlock (s : State) : Host.Outcome State Fault Refusal :=
  match readCells s.mem.ibuf 0 s.ilen.toNat with
  | .error i => .fault (.unwrittenRead .ibuf i)
  | .ok bytes => .next (finish .crc (setCrc (crc16 bytes) s))

end Sys2Proof.Machine
end

