-- ==== Sys2Proof/Machine/Parse.lean ====
section
/-! DEFINITION. The response parser's commands (spec/42_parse.md R151 to R153): each is the pipeline of R150 with its own
function code and decode step. -/

namespace Sys2Proof.Machine

/-- R151: validate and decode a 0x03 response. -/
def execParseRd (s : State) : Host.Outcome State Fault Refusal :=
  parseWith 0x03 decodeReadResponse s

/-- R152: validate a 0x06 response. -/
def execParseWs (s : State) : Host.Outcome State Fault Refusal :=
  parseWith 0x06 decodeWriteResponse s

/-- R153: validate a 0x10 response. -/
def execParseWm (s : State) : Host.Outcome State Fault Refusal :=
  parseWith 0x10 decodeWriteResponse s

end Sys2Proof.Machine
end

