-- ==== Sys2Proof/Machine/Dispatch.lean ====
section
/-! DEFINITION. One arm per command (spec/opcode_table.json), each a direct call of its meaning. -/

namespace Sys2Proof.Machine

def exec (i : Instr) (s : State) : Host.Outcome State Fault Refusal :=
  match i with
  | .nop => Sys2Proof.Machine.execNop s
  | .crcInit => Sys2Proof.Machine.execCrcInit s
  | .crcUpdate b => Sys2Proof.Machine.execCrcUpdate b s
  | .crcBlock => Sys2Proof.Machine.execCrcBlock s
  | .buildRd dev reg count => Sys2Proof.Machine.execBuildRd dev reg count s
  | .buildRdDef dev reg => Sys2Proof.Machine.execBuildRdDef dev reg s
  | .buildWs dev reg value => Sys2Proof.Machine.execBuildWs dev reg value s
  | .buildWm dev reg count => Sys2Proof.Machine.execBuildWm dev reg count s
  | .buildWmImp dev reg => Sys2Proof.Machine.execBuildWmImp dev reg s
  | .parseRd => Sys2Proof.Machine.execParseRd s
  | .parseWs => Sys2Proof.Machine.execParseWs s
  | .parseWm => Sys2Proof.Machine.execParseWm s

end Sys2Proof.Machine
end

