-- ==== Sys2Proof/Machine/HostPort.lean ====
section
/-! DEFINITION. MBC's host interface (spec/20_memory.md R51 to R53, spec/43_control.md R180): the execution of a command
word, the four host accesses, and one action of a run. -/

namespace Sys2Proof.Machine

/-- The id of a register (R20), for reference only: the host accesses registers by name (R21). -/
def regId : Reg → Nat
  | .cmd => 0x0
  | .status => 0x1
  | .crc => 0x2
  | .ilen => 0x3
  | .wcount => 0x4
  | .olen => 0x5
  | .rcount => 0x6

/-- R180 `Execute(w)`: CMD <- w, then the command. A word that is no command completes with InvalidCommand and its
family's failure effects (R75, R182, R130, R154). -/
def command (w : Word) (s : State) : Host.Outcome State Fault Refusal :=
  match decode w with
  | .ok i => exec i (latchCmd w s)
  | .error r => .next (raise (rejectFamily r) .invalidCommand (latchCmd w s))

/-- What a read of a register returns, at its width (R20, R58). -/
def readReg (s : State) : Reg → Reply
  | .cmd => .bits64 s.cmd
  | .status => .bits16 s.status
  | .crc => .bits16 s.crc
  | .ilen => .bits16 s.ilen
  | .wcount => .bits8 s.wcount
  | .olen => .bits16 s.olen
  | .rcount => .bits16 s.rcount

/-- R51 `HostWriteReg(R, v)`, with the refusals of R52. -/
def hostWriteReg (r : Reg) (v : Nat) (s : State) : Host.Outcome State Fault Refusal :=
  match r with
  | .cmd => if v < 2 ^ 64 then command (BitVec.ofNat 64 v) s else .refused .hostViolation
  | .ilen => if v < 2 ^ 16 ∧ v ≤ s.cfg.ibufCap then .next (setIlen (BitVec.ofNat 16 v) s) else .refused .hostViolation
  | .wcount => if v < 2 ^ 8 then .next (setWcount (BitVec.ofNat 8 v) s) else .refused .hostViolation
  | .status => .refused .hostViolation
  | .crc => .refused .hostViolation
  | .olen => .refused .hostViolation
  | .rcount => .refused .hostViolation

/-- R51 `HostReadReg(R)`: returns R, with no side effect. -/
def hostReadReg (r : Reg) (s : State) : Host.Outcome State Fault Refusal :=
  .next (giveReply (readReg s r) s)

/-- R51 `HostWriteBuf(B, i, v)`, with the refusals of R52. -/
def hostWriteBuf (b : Buffer) (i v : Nat) (s : State) : Host.Outcome State Fault Refusal :=
  match b with
  | .ibuf => if i < bufferCap s.cfg .ibuf ∧ v < 2 ^ 8 then .next (setIbuf i (BitVec.ofNat 8 v) s) else .refused .hostViolation
  | .wdata => if i < bufferCap s.cfg .wdata ∧ v < 2 ^ 16 then .next (setWdata i (BitVec.ofNat 16 v) s) else .refused .hostViolation
  | .obuf => .refused .hostViolation
  | .rval => .refused .hostViolation

/-- R51 `HostReadBuf(B, i)`: returns B[i], with no side effect. An index outside the buffer is refused (R52); an element
that holds no value faults (R53). -/
def hostReadBuf (b : Buffer) (i : Nat) (s : State) : Host.Outcome State Fault Refusal :=
  if i < bufferCap s.cfg b then
    match s.mem.read b i with
    | some r => .next (giveReply r s)
    | none => .fault (.unwrittenRead b i)
  else .refused .hostViolation

/-- R51: the four host access operations. -/
def access (a : HostAccess) (s : State) : Host.Outcome State Fault Refusal :=
  match a with
  | .writeReg r v => hostWriteReg r v s
  | .readReg r => hostReadReg r s
  | .writeBuf b i v => hostWriteBuf b i v s
  | .readBuf b i => hostReadBuf b i s

/-- One action of a run: a host access, the reset input between commands (R231), or a second agent's access, which is
refused (R65). -/
def act (e : Event) (s : State) : Host.Outcome State Fault Refusal :=
  match e with
  | .access a => access a s
  | .reset => .next (applyReset s)
  | .secondAgent _ => .refused .multiHost

/-- The actions of `es` in order, ending at the first fault or refusal (R60, R185). -/
def actAll : List Event → State → Host.Outcome State Fault Refusal
  | [], s => .next s
  | e :: es, s =>
    match act e s with
    | .next t => actAll es t
    | .fault f => .fault f
    | .refused r => .refused r

end Sys2Proof.Machine
end

