-- ==== Sys2Proof/Machine/Step.lean ====
section
/-! DEFINITION. One step: the next action of the host's sequence (spec/10_state.md R22, spec/43_control.md R185). MBC
fetches nothing (R22); what runs next is what the host does next. -/

namespace Sys2Proof.Machine

/-- The action at index `pc` runs, and the index advances by one. When the host has no further action MBC is idle and
holds its state (R213). -/
def step (s : State) : Host.Outcome State Fault Refusal :=
  match s.script[s.pc]? with
  | none => .next s
  | some e => act e (advancePc s)

/-- The host writes the command word to CMD as its next action. A program comes to run only so: the host's sequence is
the outside world's (notes/assumptions/3.md). -/
def State.withFetchWord (s : State) (nbits w : Nat) : State :=
  { s with script := placeEvent s.script s.pc (.access (.writeReg .cmd (tableWord nbits w).toNat)) }

end Sys2Proof.Machine
end

