-- ==== Sys2Proof/Machine/Assembler.lean ====
section
/-! DEFINITION. The host-program forms of spec/30_encoding.md R88 and R89: commands, literal words and the
pseudo-instructions, as the host actions they expand to. -/

namespace Sys2Proof.Machine

/-- R88 `.word w`: a CMD write of the literal word. -/
def asmWord (w : Word) : Event := .access (.writeReg .cmd w.toNat)

/-- R88: a command assembles to one CMD write. -/
def asmCommand (i : Instr) : Event := asmWord (encode i)

/-- R89: `BUILD.RD dev, reg` without a count is BUILD.RD.DEF. -/
def asmBuildRd (dev : Byte) (reg : Half) : Option Half → Event
  | some count => asmCommand (.buildRd dev reg count)
  | none => asmCommand (.buildRdDef dev reg)

/-- R89: `BUILD.WM dev, reg` without a count is BUILD.WM.IMP. -/
def asmBuildWm (dev : Byte) (reg : Half) : Option Half → Event
  | some count => asmCommand (.buildWm dev reg count)
  | none => asmCommand (.buildWmImp dev reg)

/-- One buffer write per element, from index `i`. -/
def asmFill {width : Nat} (b : Buffer) : Nat → List (BitVec width) → List Event
  | _, [] => []
  | i, v :: vs => .access (.writeBuf b i v.toNat) :: asmFill b (i + 1) vs

/-- R89 `LOADI`: the bytes into IBUF from index 0, then ILEN. Longer than `P_IBUF_CAP` it does not assemble. -/
def asmLoadI (cfg : Config) (bytes : List Byte) : Option (List Event) :=
  if bytes.length ≤ cfg.ibufCap then
    some (asmFill .ibuf 0 bytes ++ [.access (.writeReg .ilen bytes.length)])
  else none

/-- R89 `LOADW`: the values into WDATA from index 0, then WCOUNT. Longer than 127 it does not assemble. -/
def asmLoadW (values : List Half) : Option (List Event) :=
  if values.length ≤ Config.wdataCap then
    some (asmFill .wdata 0 values ++ [.access (.writeReg .wcount values.length)])
  else none

/-- R89 `CRC.BYTES`: CRC.INIT, then a CRC.UPDATE for each byte. -/
def asmCrcBytes (bytes : List Byte) : List Event :=
  asmCommand .crcInit :: bytes.map (fun b => asmCommand (.crcUpdate b))

end Sys2Proof.Machine
end

