-- ==== Sys2Proof/Machine/Run.lean ====
section
/-! DEFINITION. Runs with the model's fault and refusal marks (spec/10_state.md R37, spec/43_control.md R185). `step`
answers a fault or refusal; `advance` records it in the state, so that a run can be looked at past it (V-RST-03). -/

namespace Sys2Proof.Machine

/-- What is left of the state when the action `e` stops: CMD holds the word just written (R23), and nothing else has
changed (notes/assumptions/6.md). -/
def stoppedState (e : Event) (s : State) : State :=
  match e with
  | .access (.writeReg .cmd v) => if v < 2 ^ 64 then latchCmd (BitVec.ofNat 64 v) s else s
  | _ => s

/-- One action, with a fault or a refusal recorded in its mark (R37). -/
def record (e : Event) (s : State) : State :=
  match act e s with
  | .next t => t
  | .fault f => markFault f (stoppedState e s)
  | .refused r => markRefusal r (stoppedState e s)

/-- One step of a run that never stops: its marks tell whether it has a meaning. -/
def advance (s : State) : State :=
  match s.script[s.pc]? with
  | none => s
  | some e => record e (advancePc s)

/-- `k` steps. -/
def advanceBy : Nat → State → State
  | 0, s => s
  | k + 1, s => advanceBy k (advance s)

/-- R185: "no fault and no refusal recorded". -/
def State.unmarked (s : State) : Bool := s.faultMark.isNone && s.refusalMark.isNone

/-- R185: a run ends when its last action has completed. -/
def State.runEnded (s : State) : Bool := decide (s.script.length ≤ s.pc)

end Sys2Proof.Machine
end

