-- ==== Sys2Proof/Safety.lean ====
section
/-! DEFINITION. What the claims mean by a legal state and a safe run: the invariant every step keeps, the frame that OBUF
holds, the good end of a run, and the parts of the state an instruction's frame speaks of. -/

namespace Sys2Proof.Machine

/-! ## Legal states -/

/-- R25: the values STATUS can hold. -/
def statusValues : List Half := [0x0000, 0x0001, 0x0002, 0x0003, 0x0004, 0x0107, 0x0207, 0x0307]

/-- Exactly the elements below `n` hold a value. -/
def FilledExactly (m : Memory) (b : Buffer) (n : Nat) : Prop := ∀ i, (m.read b i).isSome = true ↔ i < n

/-- No element at or above `n` holds a value. -/
def NothingFrom (m : Memory) (b : Buffer) (n : Nat) : Prop := ∀ i, n ≤ i → m.read b i = none

/-- The legal states: the registers and buffers as spec/10_state.md R25, R28 and R30 to R36 bound them. -/
structure State.Inv (s : State) : Prop where
  /-- R5. -/
  config : s.cfg.Legal
  /-- The model's memory is in canonical form. -/
  memory : s.mem.wf = true
  /-- R25. -/
  status : s.status ∈ statusValues
  /-- R28. -/
  ilen : s.ilen.toNat ≤ s.cfg.ibufCap
  /-- R30, R34. -/
  olen : s.olen.toNat ≤ Config.obufCap
  /-- R31, R35. -/
  rcount : s.rcount.toNat ≤ s.cfg.rvalCap
  /-- R32: IBUF has no element outside its indices. -/
  ibuf : NothingFrom s.mem .ibuf s.cfg.ibufCap
  /-- R33. -/
  wdata : NothingFrom s.mem .wdata Config.wdataCap
  /-- R34: OBUF[0..OLEN) holds the frame and no later element holds a value. -/
  obuf : FilledExactly s.mem .obuf s.olen.toNat
  /-- R35: RVAL[0..RCOUNT) holds the values and no later element holds a value. -/
  rval : FilledExactly s.mem .rval s.rcount.toNat

/-! ## The frame in OBUF (R132) -/

/-- R132: the bytes are a frame that BUILD makes: a legal device address, one of the three function codes, and last the
CRC of every byte before it, low byte first. -/
def IsRequestFrame (f : List Byte) : Prop :=
  ∃ dev fc body, f = dev :: fc :: body ++ crcBytes (crc16 (dev :: fc :: body)) ∧ dev ≤ Config.maxDevice ∧
    (fc = 0x03 ∨ fc = 0x06 ∨ fc = 0x10)

/-- OBUF holds no frame, or OBUF[0..OLEN) is a whole one. -/
def State.FrameInv (s : State) : Prop :=
  s.olen = 0 ∨ ∃ f, readCells s.mem.obuf 0 s.olen.toNat = .ok f ∧ IsRequestFrame f

/-! ## Safe runs (R185) -/

/-- A run of `k` steps from `s` has a good end: no step faults and none is refused. -/
def SafeRun (k : Nat) (s : State) : Prop := ∃ t, Host.Core.run Sys2Proof.core k s = .next t

/-! ## Frames -/

/-- The registers the host loads and no command writes (R23, R28, R29). -/
def SameInputs (s t : State) : Prop := t.cmd = s.cmd ∧ t.ilen = s.ilen ∧ t.wcount = s.wcount

/-- What is not MBC's own: the marks, the parameters and the host's side of the run (R37, R40, R22). -/
def SameRun (s t : State) : Prop :=
  t.faultMark = s.faultMark ∧ t.refusalMark = s.refusalMark ∧ t.cfg = s.cfg ∧ t.script = s.script ∧ t.pc = s.pc ∧
    t.replies = s.replies

/-- Every element of the buffer `b` reads as before. -/
def SameBuffer (b : Buffer) (s t : State) : Prop := ∀ i, t.mem.read b i = s.mem.read b i

/-- Every element of every buffer reads as before. -/
def SameMemory (s t : State) : Prop := ∀ b i, t.mem.read b i = s.mem.read b i

/-- Host reads find exactly the elements of `bytes` in OBUF, from index 0 (R34). -/
def HoldsFrame (s : State) (bytes : List Byte) : Prop :=
  s.olen.toNat = bytes.length ∧ ∀ i, s.mem.read .obuf i = bytes[i]?.map .bits8

/-- Host reads find exactly the elements of `values` in RVAL, from index 0 (R35). -/
def HoldsValues (s : State) (values : List Half) : Prop :=
  s.rcount.toNat = values.length ∧ ∀ i, s.mem.read .rval i = values[i]?.map .bits16

/-! ## The inputs of a command -/

/-- ILEN is the number of `bytes`, and IBUF[0..ILEN) holds them (R28, R32). -/
def HoldsInput (s : State) (bytes : List Byte) : Prop :=
  s.ilen.toNat = bytes.length ∧ ∀ k, k < bytes.length → s.mem.read .ibuf k = bytes[k]?.map .bits8

/-- WCOUNT is the number of `values`, and WDATA[0..WCOUNT) holds them (R29, R33). -/
def SuppliesValues (s : State) (values : List Half) : Prop :=
  s.wcount.toNat = values.length ∧ ∀ k, k < values.length → s.mem.read .wdata k = values[k]?.map .bits16

/-- `i` is the first element below `n` of the buffer `b` that holds no value (R53). -/
def FirstUnwritten (s : State) (b : Buffer) (n i : Nat) : Prop :=
  i < n ∧ s.mem.read b i = none ∧ ∀ k, k < i → (s.mem.read b k).isSome = true

/-! ## The bytes of a frame -/

/-- v[15:8]. -/
def highByte (v : Half) : Byte := v.extractLsb' 8 8

/-- v[7:0]. -/
def lowByte (v : Half) : Byte := v.extractLsb' 0 8

/-- R82, R83: the body of an 8-byte request. -/
def shortBody (dev fc : Byte) (reg arg : Half) : List Byte :=
  [dev, fc, highByte reg, lowByte reg, highByte arg, lowByte arg]

/-- R122: the values' bytes, the high byte of each first. -/
def valueBytes (values : List Half) : List Byte := values.flatMap (fun v => [highByte v, lowByte v])

/-- R84: the body of a 0x10 request. -/
def listBody (dev : Byte) (reg : Half) (values : List Half) : List Byte :=
  [dev, 0x10, highByte reg, lowByte reg, 0x00, BitVec.ofNat 8 values.length, BitVec.ofNat 8 (2 * values.length)] ++
    valueBytes values

/-- R81: a body followed by its CRC, low byte first. -/
def frameOf (body : List Byte) : List Byte := body ++ [lowByte (crc16 body), highByte (crc16 body)]

/-! ## What a command leaves -/

/-- A failed command of the plain family: STATUS only (R180). -/
def plainFailed (s : State) : State := { s with status := 0x0107 }

/-- R124: OLEN = 0, no element of OBUF holds a value, STATUS = 0x0107, and nothing else. -/
def buildFailed (s : State) : State := { s with status := 0x0107, olen := 0, mem := { s.mem with obuf := [] } }

/-- R156: RCOUNT = 0, no element of RVAL holds a value, the given STATUS and CRC, and nothing else. -/
def parseFailed (status crc : Half) (s : State) : State :=
  { s with status := status, crc := crc, rcount := 0, mem := { s.mem with rval := [] } }

/-- R123: what a successful BUILD of `body` leaves, and all it leaves alone. -/
def Built (body : List Byte) (s t : State) : Prop :=
  HoldsFrame t (frameOf body) ∧ t.crc = crc16 body ∧ t.status = 0x0002 ∧ t.rcount = s.rcount ∧ SameInputs s t ∧
    SameRun s t ∧ SameBuffer .ibuf s t ∧ SameBuffer .wdata s t ∧ SameBuffer .rval s t

/-- R151 to R153: what a PARSE that accepts leaves, and all it leaves alone. -/
def Parsed (status crc : Half) (values : List Half) (s t : State) : Prop :=
  HoldsValues t values ∧ t.crc = crc ∧ t.status = status ∧ t.olen = s.olen ∧ SameInputs s t ∧ SameRun s t ∧
    SameBuffer .ibuf s t ∧ SameBuffer .wdata s t ∧ SameBuffer .obuf s t

/-- R27, R123, R124: the CRC register after a BUILD. On success it is the CRC of the body, which is OBUF[0..OLEN) without
its last two bytes; otherwise it is unchanged. -/
def CrcAfterBuild (s t : State) : Prop :=
  (t.status = 0x0002 ∧ ∃ f, HoldsFrame t f ∧ t.crc = crc16 (f.take (f.length - 2))) ∨
    (t.status = 0x0107 ∧ t.crc = s.crc)

/-- R27, R150: the CRC register after a PARSE of function code `fc`. If check 3 was reached, so past the length and the
echo check, it is the CRC of the bytes before the last two; otherwise it is unchanged. -/
def CrcAfterParse (fc : Byte) (s t : State) : Prop :=
  (5 ≤ s.ilen.toNat ∧ s.mem.read .ibuf 1 = some (.bits8 fc) ∧
    ∃ bytes, HoldsInput s bytes ∧ t.crc = crc16 (bytes.take (bytes.length - 2))) ∨
  ((s.ilen.toNat < 5 ∨ s.mem.read .ibuf 1 ≠ some (.bits8 fc)) ∧ t.crc = s.crc)

/-- The words of one form (R73 to R75): with its reserved bits clear a selected word runs its instruction with CMD
written; otherwise it fails as its family fails. -/
def WordsRun (selects reserved : Word → Prop) (i : Word → Instr) (failed : State → State) : Prop :=
  ∀ w s, selects w →
    (¬reserved w → command w s = exec (i w) { s with cmd := w }) ∧
      (reserved w → command w s = .next (failed { s with cmd := w }))

/-- R150 for the instruction `i` of function code `fc`: the length, the echo and the CRC are checked in this order, and
the first element read that holds no value faults. -/
def ParseChecks (i : Instr) (fc : Byte) : Prop :=
  (∀ s, s.ilen.toNat < 5 → exec i s = .next (parseFailed 0x0207 s.crc s)) ∧
  (∀ s, 5 ≤ s.ilen.toNat → s.mem.read .ibuf 1 = none → exec i s = .fault (.unwrittenRead .ibuf 1)) ∧
  (∀ s b, 5 ≤ s.ilen.toNat → s.mem.read .ibuf 1 = some (.bits8 b) → b ≠ fc →
    exec i s = .next (parseFailed 0x0207 s.crc s)) ∧
  (∀ s k, 5 ≤ s.ilen.toNat → s.mem.read .ibuf 1 = some (.bits8 fc) → FirstUnwritten s .ibuf s.ilen.toNat k →
    exec i s = .fault (.unwrittenRead .ibuf k)) ∧
  (∀ s body lo hi, HoldsInput s (body ++ [lo, hi]) → 3 ≤ body.length → body[1]? = some fc →
    lo.toNat + 256 * hi.toNat ≠ (crc16 body).toNat →
    exec i s = .next (parseFailed 0x0307 (crc16 body) s))

/-! ## The priority order of R203 -/

/-- How a command ends: by a fault, with a STATUS it writes, or (NOP) with STATUS as it was. -/
inductive Verdict where
  | fault (b : Buffer) (i : Nat)
  | completes (status : Half)
  | keepsStatus
  deriving DecidableEq, Repr

/-- R75, R120: the bits that must be zero, by OP, FC and CP. -/
def reservedMask (w : Word) : Word :=
  if w.extractLsb 7 0 = 0x02 then 0xFFFFFFFFFFFF0000
  else if w.extractLsb 7 0 = 0x20 then 0xFFFFFFFFFFFF0000
  else if w.extractLsb 7 0 = 0x10 then
    if w.extractLsb 15 8 = 0x06 then 0x00000000FF000000
    else if w.getLsbD 24 = true then 0x00000000FE000000
    else 0xFFFF0000FE000000
  else 0xFFFFFFFFFFFFFF00

/-- The first element below `n` that holds no value, if any. -/
def firstUnwritten? (s : State) (b : Buffer) (n : Nat) : Option Nat :=
  (List.range n).find? (fun i => (s.mem.read b i).isNone)

/-- The byte in IBUF[k]; asked only of elements that hold one. -/
def inputByte (s : State) (k : Nat) : Byte := (readCell s.mem.ibuf k).getD 0

/-- R200: the operand values a BUILD rejects: DEV > 247; a read count of 0; a value list that is empty, longer than 127,
or not of the explicit count's length. -/
def buildOperandsIllegal (w : Word) (s : State) : Bool :=
  decide (w.extractLsb 23 16 > 247) ||
  (w.extractLsb 15 8 == 0x03 && w.getLsbD 24 && w.extractLsb 63 48 == 0) ||
  (w.extractLsb 15 8 == 0x10 &&
    (s.wcount == 0 || decide (s.wcount > 127) ||
      (w.getLsbD 24 && w.extractLsb 63 48 != s.wcount.setWidth 16)))

/-- R203 steps 6 to 10, for a PARSE of function code `fc`. -/
def parseVerdict (fc : Byte) (s : State) : Verdict :=
  if s.ilen < 5 then .completes 0x0207
  else if s.mem.read .ibuf 1 = none then .fault .ibuf 1
  else if inputByte s 1 ≠ fc then .completes 0x0207
  else
    match firstUnwritten? s .ibuf s.ilen.toNat with
    | some i => .fault .ibuf i
    | none =>
      if (inputByte s (s.ilen.toNat - 1) ++ inputByte s (s.ilen.toNat - 2) : BitVec 16) ≠
          crc16 ((List.range (s.ilen.toNat - 2)).map (inputByte s)) then .completes 0x0307
      else if fc = 0x03 then
        if (s.ilen.toNat - 5) % 2 = 1 then .completes 0x0207 else .completes 0x0004
      else .completes 0x0003

/-- R203: the first cause that applies decides the outcome. -/
def verdict (w : Word) (s : State) : Verdict :=
  if w.extractLsb 7 0 ∉ [0x00, 0x01, 0x02, 0x03, 0x10, 0x20] then .completes 0x0107
  else if w.extractLsb 7 0 ∈ [0x10, 0x20] ∧ w.extractLsb 15 8 ∉ [0x03, 0x06, 0x10] then .completes 0x0107
  else if w &&& reservedMask w ≠ 0 then .completes 0x0107
  else if w.extractLsb 7 0 = 0x10 then
    if buildOperandsIllegal w s then .completes 0x0107
    else if w.extractLsb 15 8 = 0x10 then
      match firstUnwritten? s .wdata s.wcount.toNat with
      | some i => .fault .wdata i
      | none => .completes 0x0002
    else .completes 0x0002
  else if w.extractLsb 7 0 = 0x20 then parseVerdict (w.extractLsb 15 8) s
  else if w.extractLsb 7 0 = 0x03 then
    match firstUnwritten? s .ibuf s.ilen.toNat with
    | some i => .fault .ibuf i
    | none => .completes 0x0001
  else if w.extractLsb 7 0 = 0x00 then .keepsStatus
  else .completes 0x0001

/-! ## Host violations (R52) -/

/-- R52, one case per line of the rule. -/
def IsHostViolation (cfg : Config) : HostAccess → Prop
  | .writeReg .status _ => True
  | .writeReg .crc _ => True
  | .writeReg .olen _ => True
  | .writeReg .rcount _ => True
  | .writeReg .cmd v => 2 ^ 64 ≤ v
  | .writeReg .wcount v => 2 ^ 8 ≤ v
  | .writeReg .ilen v => 2 ^ 16 ≤ v ∨ cfg.ibufCap < v
  | .writeBuf .obuf _ _ => True
  | .writeBuf .rval _ _ => True
  | .writeBuf .ibuf i v => cfg.ibufCap ≤ i ∨ 0xFF < v
  | .writeBuf .wdata i v => 127 ≤ i ∨ 0xFFFF < v
  | .readBuf .ibuf i => cfg.ibufCap ≤ i
  | .readBuf .wdata i => 127 ≤ i
  | .readBuf .obuf i => 263 ≤ i
  | .readBuf .rval i => (cfg.ibufCap - 5) / 2 ≤ i
  | .readReg _ => False

end Sys2Proof.Machine
end

