-- ==== Sys2Proof/WellFormed.lean ====
section
/-! DEFINITION. When an instruction's own operands are legal (spec/30_encoding.md R76, spec/41_build.md R125, R128, R131).
Every `Instr` has an encoding; an ill-formed one completes with InvalidCommand whatever the state holds. -/

namespace Sys2Proof

/-- R131: DEV 0 to 247. -/
def deviceOk (dev : Byte) : Bool := dev ≤ Config.maxDevice

/-- R125: "count must be ≥1". -/
def readCountOk (count : Half) : Bool := count ≠ 0

/-- R128: a multi-write count that some value list can match, 1 to 127. -/
def writeCountOk (count : Half) : Bool := count ≠ 0 && count.toNat ≤ Config.wdataCap

/-- The operand values in the command word are legal ones. What depends on the state (WCOUNT, the buffers) is checked
by the meanings. -/
def Instr.wellFormed : Instr → Bool
  | .nop => true
  | .crcInit => true
  | .crcUpdate _ => true
  | .crcBlock => true
  | .buildRd dev _ count => deviceOk dev && readCountOk count
  | .buildRdDef dev _ => deviceOk dev
  | .buildWs dev _ _ => deviceOk dev
  | .buildWm dev _ count => deviceOk dev && writeCountOk count
  | .buildWmImp dev _ => deviceOk dev
  | .parseRd => true
  | .parseWs => true
  | .parseWm => true

end Sys2Proof
end

