-- ==== Sys2Proof/Certificates/Slice0/Obligations.lean ====
section
/-! DEFINITION. The statements for the provers, each a rule of spec/ or what follows from several. -/

open Sys2Proof Sys2Proof.Machine

/-! ## Encoding (spec/30_encoding.md) -/

/-- Words written out from the formats of R71 and the tables of R72 to R74, one for each command, decode to it. -/
def Obligations.WrittenOutWordsDecodeToTheirCommands : Prop :=
  decode 0x0000000000000000 = .ok .nop ∧
  decode 0x0000000000000001 = .ok .crcInit ∧
  decode 0x0000000000008002 = .ok (.crcUpdate 0x80) ∧
  decode 0x0000000000000003 = .ok .crcBlock ∧
  decode 0x003F0B0001F70310 = .ok (.buildRd 0xF7 0x0B00 0x003F) ∧
  decode 0x0000A5C300120310 = .ok (.buildRdDef 0x12 0xA5C3) ∧
  decode 0x03E8010100010610 = .ok (.buildWs 0x01 0x0101 0x03E8) ∧
  decode 0x0002030201051010 = .ok (.buildWm 0x05 0x0302 0x0002) ∧
  decode 0x0000010D00011010 = .ok (.buildWmImp 0x01 0x010D) ∧
  decode 0x0000000000000320 = .ok .parseRd ∧
  decode 0x0000000000000620 = .ok .parseWs ∧
  decode 0x0000000000001020 = .ok .parseWm

/-- Every instruction survives encoding and decoding, with every operand. -/
def Obligations.DecodeOfEncodeIsTheInstruction : Prop :=
  ∀ i : Instr, decode (encode i) = .ok i

/-- The other direction: a word has one meaning, and an accepted word is the encoding of what it decodes to. -/
def Obligations.EncodeOfADecodedWordIsTheWord : Prop :=
  ∀ (w : Word) (i : Instr), decode w = .ok i → encode i = w

/-- R88: the number each mnemonic assembles to, by the place values of its fields in R71. -/
def Obligations.EncodedWordsHaveTheFieldsPlaceValues : Prop :=
  (encode .nop).toNat = 0x00 ∧ (encode .crcInit).toNat = 0x01 ∧ (encode .crcBlock).toNat = 0x03 ∧
  (∀ b, (encode (.crcUpdate b)).toNat = 0x02 + b.toNat * 2 ^ 8) ∧
  (∀ dev reg count, (encode (.buildRd dev reg count)).toNat =
    0x10 + 0x03 * 2 ^ 8 + dev.toNat * 2 ^ 16 + 2 ^ 24 + reg.toNat * 2 ^ 32 + count.toNat * 2 ^ 48) ∧
  (∀ dev reg, (encode (.buildRdDef dev reg)).toNat = 0x10 + 0x03 * 2 ^ 8 + dev.toNat * 2 ^ 16 + reg.toNat * 2 ^ 32) ∧
  (∀ dev reg value, (encode (.buildWs dev reg value)).toNat =
    0x10 + 0x06 * 2 ^ 8 + dev.toNat * 2 ^ 16 + reg.toNat * 2 ^ 32 + value.toNat * 2 ^ 48) ∧
  (∀ dev reg count, (encode (.buildWm dev reg count)).toNat =
    0x10 + 0x10 * 2 ^ 8 + dev.toNat * 2 ^ 16 + 2 ^ 24 + reg.toNat * 2 ^ 32 + count.toNat * 2 ^ 48) ∧
  (∀ dev reg, (encode (.buildWmImp dev reg)).toNat = 0x10 + 0x10 * 2 ^ 8 + dev.toNat * 2 ^ 16 + reg.toNat * 2 ^ 32) ∧
  (encode .parseRd).toNat = 0x20 + 0x03 * 2 ^ 8 ∧ (encode .parseWs).toNat = 0x20 + 0x06 * 2 ^ 8 ∧
  (encode .parseWm).toNat = 0x20 + 0x10 * 2 ^ 8

/-- Each row of the opcode table: the words that match under its mask are exactly those that decode to its command. -/
def Obligations.DecodeFollowsTheOpcodeTable : Prop :=
  ∀ w : Word,
    (w &&& 0xFFFFFFFFFFFFFFFF = 0x0000000000000000 ↔ decode w = .ok .nop) ∧
    (w &&& 0xFFFFFFFFFFFFFFFF = 0x0000000000000001 ↔ decode w = .ok .crcInit) ∧
    (w &&& 0xFFFFFFFFFFFF00FF = 0x0000000000000002 ↔ decode w = .ok (.crcUpdate (w.extractLsb 15 8))) ∧
    (w &&& 0xFFFFFFFFFFFFFFFF = 0x0000000000000003 ↔ decode w = .ok .crcBlock) ∧
    (w &&& 0x00000000FF00FFFF = 0x0000000001000310 ↔
      decode w = .ok (.buildRd (w.extractLsb 23 16) (w.extractLsb 47 32) (w.extractLsb 63 48))) ∧
    (w &&& 0xFFFF0000FF00FFFF = 0x0000000000000310 ↔
      decode w = .ok (.buildRdDef (w.extractLsb 23 16) (w.extractLsb 47 32))) ∧
    (w &&& 0x00000000FF00FFFF = 0x0000000000000610 ↔
      decode w = .ok (.buildWs (w.extractLsb 23 16) (w.extractLsb 47 32) (w.extractLsb 63 48))) ∧
    (w &&& 0x00000000FF00FFFF = 0x0000000001001010 ↔
      decode w = .ok (.buildWm (w.extractLsb 23 16) (w.extractLsb 47 32) (w.extractLsb 63 48))) ∧
    (w &&& 0xFFFF0000FF00FFFF = 0x0000000000001010 ↔
      decode w = .ok (.buildWmImp (w.extractLsb 23 16) (w.extractLsb 47 32))) ∧
    (w &&& 0xFFFFFFFFFFFFFFFF = 0x0000000000000320 ↔ decode w = .ok .parseRd) ∧
    (w &&& 0xFFFFFFFFFFFFFFFF = 0x0000000000000620 ↔ decode w = .ok .parseWs) ∧
    (w &&& 0xFFFFFFFFFFFFFFFF = 0x0000000000001020 ↔ decode w = .ok .parseWm)

/-- R75: a form's reserved bits must be zero; otherwise it completes with InvalidCommand and only its family's failure
effects. One clause per line of the rule's table. -/
def Obligations.ReservedBitsCompleteWithInvalidCommand : Prop :=
  ∀ (w : Word) (s : State),
    ((w.extractLsb 7 0 = 0x00 ∨ w.extractLsb 7 0 = 0x01 ∨ w.extractLsb 7 0 = 0x03) → w &&& 0xFFFFFFFFFFFFFF00 ≠ 0 →
      command w s = .next (plainFailed { s with cmd := w })) ∧
    (w.extractLsb 7 0 = 0x02 → w &&& 0xFFFFFFFFFFFF0000 ≠ 0 → command w s = .next (plainFailed { s with cmd := w })) ∧
    (w.extractLsb 7 0 = 0x10 → (w.extractLsb 15 8 = 0x03 ∨ w.extractLsb 15 8 = 0x10) → w.getLsbD 24 = true →
      w &&& 0x00000000FE000000 ≠ 0 → command w s = .next (buildFailed { s with cmd := w })) ∧
    (w.extractLsb 7 0 = 0x10 → (w.extractLsb 15 8 = 0x03 ∨ w.extractLsb 15 8 = 0x10) → w.getLsbD 24 = false →
      w &&& 0xFFFF0000FE000000 ≠ 0 → command w s = .next (buildFailed { s with cmd := w })) ∧
    (w.extractLsb 7 0 = 0x10 → w.extractLsb 15 8 = 0x06 → w &&& 0x00000000FF000000 ≠ 0 →
      command w s = .next (buildFailed { s with cmd := w })) ∧
    (w.extractLsb 7 0 = 0x20 → (w.extractLsb 15 8 = 0x03 ∨ w.extractLsb 15 8 = 0x06 ∨ w.extractLsb 15 8 = 0x10) →
      w &&& 0xFFFFFFFFFFFF0000 ≠ 0 → command w s = .next (parseFailed 0x0107 s.crc { s with cmd := w }))

/-- R182: a reserved OP completes with InvalidCommand, and nothing else changes apart from CMD. -/
def Obligations.ReservedOpcodeIsInvalidCommand : Prop :=
  ∀ (w : Word) (s : State),
    w.extractLsb 7 0 ≠ 0x00 → w.extractLsb 7 0 ≠ 0x01 → w.extractLsb 7 0 ≠ 0x02 → w.extractLsb 7 0 ≠ 0x03 →
    w.extractLsb 7 0 ≠ 0x10 → w.extractLsb 7 0 ≠ 0x20 →
    command w s = .next { s with cmd := w, status := 0x0107 }

/-- R130: a BUILD of any other function code fails before any other check. -/
def Obligations.BuildOfAnotherFunctionCodeIsInvalidCommand : Prop :=
  ∀ (w : Word) (s : State),
    w.extractLsb 7 0 = 0x10 → w.extractLsb 15 8 ≠ 0x03 → w.extractLsb 15 8 ≠ 0x06 → w.extractLsb 15 8 ≠ 0x10 →
    command w s = .next (buildFailed { s with cmd := w })

/-- R154: a PARSE of any other function code fails; IBUF is not read (whatever it holds) and CRC is unchanged. -/
def Obligations.ParseOfAnotherFunctionCodeIsInvalidCommand : Prop :=
  ∀ (w : Word) (s : State),
    w.extractLsb 7 0 = 0x20 → w.extractLsb 15 8 ≠ 0x03 → w.extractLsb 15 8 ≠ 0x06 → w.extractLsb 15 8 ≠ 0x10 →
    command w s = .next (parseFailed 0x0107 s.crc { s with cmd := w })

/-- R76: an instruction whose own operand values are illegal fails, whatever the state holds. Which values those are is
`Instr.wellFormed`, the model's predicate (notes/assumptions/11.md). -/
def Obligations.IllFormedInstructionsRaiseInvalidCommand : Prop :=
  ∀ (i : Instr) (s : State), i.wellFormed = false → exec i s = .next (buildFailed s)

/-! ## The step (R22, R180, R185) -/

/-- When the host's next action writes to CMD a word that decodes to `i`, the step is `exec i`, with CMD holding the word
and the index one further. That the host's sequence stands in State is the model's choice (notes/assumptions/3.md). -/
def Obligations.StepRunsTheDecodedInstruction : Prop :=
  ∀ (s : State) (w : Word) (i : Instr),
    s.script[s.pc]? = some (.access (.writeReg .cmd w.toNat)) → decode w = .ok i →
    step s = exec i { s with cmd := w, pc := s.pc + 1 }

/-- A word placed as the next action is what the next step runs, in every state. Placing it is the model's own
(notes/assumptions/3.md). -/
def Obligations.PlacedWordRunsAtTheNextStep : Prop :=
  ∀ (s : State) (w : Nat) (i : Instr), w < 2 ^ 64 → decodeTableWord 64 w = some i →
    step (s.withFetchWord 64 w) =
      exec i { s.withFetchWord 64 w with cmd := BitVec.ofNat 64 w, pc := s.pc + 1 }

/-- R22: the index into the host's sequence advances by one at each action and no command changes it or the sequence; with
no action left the machine holds its state, which is the model's choice of an idle step (notes/assumptions/3.md). -/
def Obligations.EachStepTakesTheNextHostAction : Prop :=
  (∀ s t, s.script[s.pc]? ≠ none → step s = .next t → t.pc = s.pc + 1 ∧ t.script = s.script ∧ t.cfg = s.cfg) ∧
  (∀ s, s.script[s.pc]? = none → step s = .next s) ∧
  (∀ i s t, exec i s = .next t → t.pc = s.pc ∧ t.script = s.script)

/-! ## NOP and the CRC engine -/

/-- R181: NOP has no effect; with a reserved bit set it fails. The outcome of every other word is the same whatever STATUS
held, so no other command completes without writing it. -/
def Obligations.NopChangesNothing : Prop :=
  (∀ s, exec .nop s = .next s) ∧
  (∀ (w : Word) (s : State) (v : Half), w ≠ 0x0000000000000000 → command w { s with status := v } = command w s) ∧
  WordsRun (fun w => w.extractLsb 7 0 = 0x00) (fun w => w.extractLsb 63 8 ≠ 0) (fun _ => .nop) plainFailed

/-- R100, R101: CrcStep and Crc16 on numbers: XOR the byte in, then eight times halve, XOR-ing 0xA001 when the number was
odd; over a sequence, start from 0xFFFF. -/
def Obligations.CrcIsTheBitwiseDivisionOfTheRule : Prop :=
  (∀ (c : Half) (b : Byte), (crcStep c b).toNat =
    (fun x : Nat => if x % 2 = 1 then (x / 2) ^^^ 0xA001 else x / 2)^[8] (c.toNat ^^^ b.toNat)) ∧
  (∀ bytes : List Byte, crc16 bytes = bytes.foldl crcStep 0xFFFF)

/-- R103: CRC.INIT. -/
def Obligations.CrcInitResetsTheAccumulator : Prop :=
  (∀ s, exec .crcInit s = .next { s with crc := 0xFFFF, status := 0x0001 }) ∧
  WordsRun (fun w => w.extractLsb 7 0 = 0x01) (fun w => w.extractLsb 63 8 ≠ 0) (fun _ => .crcInit) plainFailed

/-- R104: CRC.UPDATE, with its four corner cases. -/
def Obligations.CrcUpdateFeedsOneByte : Prop :=
  (∀ b s, exec (.crcUpdate b) s = .next { s with crc := crcStep s.crc b, status := 0x0001 }) ∧
  (crcStep 0xFFFF 0x00 = 0x40BF ∧ crcStep 0x0000 0x00 = 0x0000 ∧ crcStep 0x0000 0x01 = 0xC0C1 ∧
    crcStep 0x0000 0x80 = 0xA001 ∧ crcStep 0xFFFF 0x01 = 0x807E) ∧
  WordsRun (fun w => w.extractLsb 7 0 = 0x02) (fun w => w.extractLsb 63 16 ≠ 0)
    (fun w => .crcUpdate (w.extractLsb 15 8)) plainFailed

/-- R105: CRC.BLOCK takes the CRC of IBUF[0..ILEN), whatever CRC held; that of a frame with its own CRC bytes is 0; an
element that holds no value faults. -/
def Obligations.CrcBlockTakesTheCrcOfTheInput : Prop :=
  (∀ s bytes, HoldsInput s bytes → exec .crcBlock s = .next { s with crc := crc16 bytes, status := 0x0001 }) ∧
  (∀ s body, HoldsInput s (frameOf body) → exec .crcBlock s = .next { s with crc := 0x0000, status := 0x0001 }) ∧
  (∀ s i, FirstUnwritten s .ibuf s.ilen.toNat i → exec .crcBlock s = .fault (.unwrittenRead .ibuf i)) ∧
  WordsRun (fun w => w.extractLsb 7 0 = 0x03) (fun w => w.extractLsb 63 8 ≠ 0) (fun _ => .crcBlock) plainFailed

/-- R106: from any state, streaming any bytes through the accumulator gives their CRC; so does CRC.BLOCK, from any state
whose input they are. -/
def Obligations.StreamingTheCrcEqualsTheBlock : Prop :=
  (∀ (s : State) (bytes : List Byte),
    ∃ t, actAll (asmCrcBytes bytes) s = .next t ∧ t.crc = crc16 bytes ∧ t.status = 0x0001) ∧
  (∀ (u : State) (bytes : List Byte), HoldsInput u bytes →
    ∃ v, act (asmCommand .crcBlock) u = .next v ∧ v.crc = crc16 bytes ∧ v.status = 0x0001)

/-- R108: a sequence with its own CRC after it, low byte first, has CRC 0. -/
def Obligations.FrameWithItsOwnCrcHasResidueZero : Prop :=
  ∀ bytes : List Byte, crc16 (frameOf bytes) = 0x0000

/-- R110, and more: replacing one byte of a sequence by another always changes its CRC. -/
def Obligations.OneChangedByteChangesTheCrc : Prop :=
  ∀ (before after : List Byte) (a b : Byte), a ≠ b →
    crc16 (before ++ a :: after) ≠ crc16 (before ++ b :: after)

/-! ## The frame builder -/

/-- R125: BUILD.RD. -/
def Obligations.BuildRdBuildsTheReadRequest : Prop :=
  (∀ dev reg count s, dev ≤ 247 → count ≠ 0 →
    ∃ t, exec (.buildRd dev reg count) s = .next t ∧ Built (shortBody dev 0x03 reg count) s t ∧ t.olen = 8) ∧
  (∀ dev reg count s, (dev > 247 ∨ count = 0) → exec (.buildRd dev reg count) s = .next (buildFailed s)) ∧
  WordsRun (fun w => w.extractLsb 7 0 = 0x10 ∧ w.extractLsb 15 8 = 0x03 ∧ w.getLsbD 24 = true)
    (fun w => w.extractLsb 31 25 ≠ 0)
    (fun w => .buildRd (w.extractLsb 23 16) (w.extractLsb 47 32) (w.extractLsb 63 48)) buildFailed

/-- R126: BUILD.RD.DEF, whose frame is that of BUILD.RD with count 1. -/
def Obligations.BuildRdDefReadsOneRegister : Prop :=
  (∀ dev reg s, dev ≤ 247 →
    ∃ t, exec (.buildRdDef dev reg) s = .next t ∧ Built (shortBody dev 0x03 reg 0x0001) s t ∧ t.olen = 8) ∧
  (∀ dev reg s, dev > 247 → exec (.buildRdDef dev reg) s = .next (buildFailed s)) ∧
  (∀ dev reg s, exec (.buildRdDef dev reg) s = exec (.buildRd dev reg 1) s) ∧
  WordsRun (fun w => w.extractLsb 7 0 = 0x10 ∧ w.extractLsb 15 8 = 0x03 ∧ w.getLsbD 24 = false)
    (fun w => w.extractLsb 63 48 ≠ 0 ∨ w.extractLsb 31 25 ≠ 0)
    (fun w => .buildRdDef (w.extractLsb 23 16) (w.extractLsb 47 32)) buildFailed

/-- R127: BUILD.WS; every value is legal, and WCOUNT and WDATA are not read. -/
def Obligations.BuildWsBuildsTheWriteRequest : Prop :=
  (∀ dev reg value s, dev ≤ 247 →
    ∃ t, exec (.buildWs dev reg value) s = .next t ∧ Built (shortBody dev 0x06 reg value) s t ∧ t.olen = 8) ∧
  (∀ dev reg value s, dev > 247 → exec (.buildWs dev reg value) s = .next (buildFailed s)) ∧
  WordsRun (fun w => w.extractLsb 7 0 = 0x10 ∧ w.extractLsb 15 8 = 0x06) (fun w => w.extractLsb 31 24 ≠ 0)
    (fun w => .buildWs (w.extractLsb 23 16) (w.extractLsb 47 32) (w.extractLsb 63 48)) buildFailed

/-- R128: BUILD.WM. The InvalidCommand checks come before WDATA is read. -/
def Obligations.BuildWmBuildsTheListRequest : Prop :=
  (∀ dev reg count s values, dev ≤ 247 → SuppliesValues s values → 1 ≤ values.length → values.length ≤ 127 →
    count.toNat = values.length →
    ∃ t, exec (.buildWm dev reg count) s = .next t ∧ Built (listBody dev reg values) s t ∧
      t.olen.toNat = 9 + 2 * values.length) ∧
  (∀ dev reg count s, (dev > 247 ∨ s.wcount = 0 ∨ s.wcount > 127 ∨ count.toNat ≠ s.wcount.toNat) →
    exec (.buildWm dev reg count) s = .next (buildFailed s)) ∧
  (∀ dev reg count s i, dev ≤ 247 → s.wcount ≤ 127 → count.toNat = s.wcount.toNat →
    FirstUnwritten s .wdata s.wcount.toNat i → exec (.buildWm dev reg count) s = .fault (.unwrittenRead .wdata i)) ∧
  WordsRun (fun w => w.extractLsb 7 0 = 0x10 ∧ w.extractLsb 15 8 = 0x10 ∧ w.getLsbD 24 = true)
    (fun w => w.extractLsb 31 25 ≠ 0)
    (fun w => .buildWm (w.extractLsb 23 16) (w.extractLsb 47 32) (w.extractLsb 63 48)) buildFailed

/-- R129: BUILD.WM.IMP, whose frame is that of BUILD.WM with count WCOUNT. -/
def Obligations.BuildWmImpTakesItsCountFromTheList : Prop :=
  (∀ dev reg s values, dev ≤ 247 → SuppliesValues s values → 1 ≤ values.length → values.length ≤ 127 →
    ∃ t, exec (.buildWmImp dev reg) s = .next t ∧ Built (listBody dev reg values) s t ∧
      t.olen.toNat = 9 + 2 * values.length) ∧
  (∀ dev reg s, (dev > 247 ∨ s.wcount = 0 ∨ s.wcount > 127) → exec (.buildWmImp dev reg) s = .next (buildFailed s)) ∧
  (∀ dev reg s i, dev ≤ 247 → s.wcount ≤ 127 → FirstUnwritten s .wdata s.wcount.toNat i →
    exec (.buildWmImp dev reg) s = .fault (.unwrittenRead .wdata i)) ∧
  (∀ dev reg s, exec (.buildWmImp dev reg) s = exec (.buildWm dev reg (s.wcount.setWidth 16)) s) ∧
  WordsRun (fun w => w.extractLsb 7 0 = 0x10 ∧ w.extractLsb 15 8 = 0x10 ∧ w.getLsbD 24 = false)
    (fun w => w.extractLsb 63 48 ≠ 0 ∨ w.extractLsb 31 25 ≠ 0)
    (fun w => .buildWmImp (w.extractLsb 23 16) (w.extractLsb 47 32)) buildFailed

/-- R124: a BUILD that reports InvalidCommand has exactly its failure effects, whatever the cause. -/
def Obligations.FailedBuildLeavesNoFrame : Prop :=
  ∀ (w : Word) (s t : State), w.extractLsb 7 0 = 0x10 → command w s = .next t → t.status = 0x0107 →
    t = { s with cmd := w, status := 0x0107, olen := 0, mem := { s.mem with obuf := [] } }

/-- R133: the only outcomes of a BUILD are FRAME, InvalidCommand, or a model fault. -/
def Obligations.BuildReportsFrameOrInvalidCommandOnly : Prop :=
  ∀ (w : Word) (s : State), w.extractLsb 7 0 = 0x10 →
    (∃ t, command w s = .next t ∧ (t.status = 0x0002 ∨ t.status = 0x0107)) ∨
      ∃ i, command w s = .fault (.unwrittenRead .wdata i)

/-- R132: the frame invariants of every successful BUILD, read from the command word and OBUF. -/
def Obligations.SuccessfulBuildLeavesAWellFormedFrame : Prop :=
  ∀ (w : Word) (s t : State), w.extractLsb 7 0 = 0x10 → command w s = .next t → t.status = 0x0002 →
    ∃ f, HoldsFrame t f ∧ f[0]? = some (w.extractLsb 23 16) ∧ f[1]? = some (w.extractLsb 15 8) ∧
      f[2]? = some (w.extractLsb 47 40) ∧ f[3]? = some (w.extractLsb 39 32) ∧
      (w.extractLsb 15 8 ≠ 0x10 → f.length = 8) ∧
      (w.extractLsb 15 8 = 0x10 → f.length = 9 + 2 * s.wcount.toNat ∧ f[4]? = some 0 ∧ f[5]? = some s.wcount ∧
        f[6]? = some (2 * s.wcount) ∧ s.wcount.toNat ≤ 127) ∧
      f = frameOf (f.take (f.length - 2)) ∧ crc16 f = 0 ∧ t.crc = crc16 (f.take (f.length - 2))

/-! ## The response parser -/

/-- R150, R151: PARSE.RD. A response with any address and any ByteCount gives the values between the ByteCount and the
CRC; an odd field gives InvalidResponse, with the CRC that was computed. The values never overflow RVAL. -/
def Obligations.ParseRdDecodesTheValues : Prop :=
  ParseChecks .parseRd 0x03 ∧
  (∀ s addr byteCount values, HoldsInput s (frameOf ([addr, 0x03, byteCount] ++ valueBytes values)) →
    ∃ t, exec .parseRd s = .next t ∧
      Parsed 0x0004 (crc16 ([addr, 0x03, byteCount] ++ valueBytes values)) values s t) ∧
  (∀ s addr byteCount field, field.length % 2 = 1 → HoldsInput s (frameOf ([addr, 0x03, byteCount] ++ field)) →
    exec .parseRd s = .next (parseFailed 0x0207 (crc16 ([addr, 0x03, byteCount] ++ field)) s)) ∧
  (∀ s t, exec .parseRd s = .next t → t.status = 0x0004 → t.rcount.toNat = (s.ilen.toNat - 5) / 2 ∧
    (s.ilen.toNat ≤ s.cfg.ibufCap → t.rcount.toNat ≤ s.cfg.rvalCap)) ∧
  WordsRun (fun w => w.extractLsb 7 0 = 0x20 ∧ w.extractLsb 15 8 = 0x03) (fun w => w.extractLsb 63 16 ≠ 0)
    (fun _ => .parseRd) (fun s => parseFailed 0x0107 s.crc s)

/-- R150, R152: PARSE.WS accepts every frame of function code 0x06 with a good CRC, whatever its other bytes. -/
def Obligations.ParseWsAcceptsTheEcho : Prop :=
  ParseChecks .parseWs 0x06 ∧
  (∀ s addr rest, 1 ≤ rest.length → HoldsInput s (frameOf ([addr, 0x06] ++ rest)) →
    ∃ t, exec .parseWs s = .next t ∧ Parsed 0x0003 (crc16 ([addr, 0x06] ++ rest)) [] s t) ∧
  WordsRun (fun w => w.extractLsb 7 0 = 0x20 ∧ w.extractLsb 15 8 = 0x06) (fun w => w.extractLsb 63 16 ≠ 0)
    (fun _ => .parseWs) (fun s => parseFailed 0x0107 s.crc s)

/-- R150, R153: PARSE.WM accepts every frame of function code 0x10 with a good CRC, whatever its other bytes. -/
def Obligations.ParseWmAcceptsTheEcho : Prop :=
  ParseChecks .parseWm 0x10 ∧
  (∀ s addr rest, 1 ≤ rest.length → HoldsInput s (frameOf ([addr, 0x10] ++ rest)) →
    ∃ t, exec .parseWm s = .next t ∧ Parsed 0x0003 (crc16 ([addr, 0x10] ++ rest)) [] s t) ∧
  WordsRun (fun w => w.extractLsb 7 0 = 0x20 ∧ w.extractLsb 15 8 = 0x10) (fun w => w.extractLsb 63 16 ≠ 0)
    (fun _ => .parseWm) (fun s => parseFailed 0x0107 s.crc s)

/-- R156: a PARSE that raises any error leaves RCOUNT = 0, no value in RVAL and the error's STATUS, and writes CRC if and
only if check 3 was reached; nothing else changes. -/
def Obligations.FailedParseLeavesNoValues : Prop :=
  ∀ (w : Word) (s t : State), w.extractLsb 7 0 = 0x20 → command w s = .next t →
    (t.status = 0x0107 ∨ t.status = 0x0207 ∨ t.status = 0x0307) →
    t = parseFailed t.status t.crc { s with cmd := w } ∧
    (t.status = 0x0107 ∨ s.ilen.toNat < 5 ∨ s.mem.read .ibuf 1 ≠ some (.bits8 (w.extractLsb 15 8)) → t.crc = s.crc) ∧
    (t.status ≠ 0x0107 → 5 ≤ s.ilen.toNat → s.mem.read .ibuf 1 = some (.bits8 (w.extractLsb 15 8)) →
      ∃ bytes, HoldsInput s bytes ∧ t.crc = crc16 (bytes.take (bytes.length - 2)))

/-- R158 (a): the echo of a frame built by BUILD.WS, BUILD.WM or BUILD.WM.IMP is accepted by its PARSE. (b): a
device-formed response gives its values back. (c): the echo of a read request gives InvalidResponse. -/
def Obligations.BuiltFramesRoundTripThroughParse : Prop :=
  (∀ dev reg value s t u, exec (.buildWs dev reg value) s = .next t → t.status = 0x0002 → u.ilen = t.olen →
    (∀ k, k < t.olen.toNat → u.mem.read .ibuf k = t.mem.read .obuf k) →
    ∃ v, exec .parseWs u = .next v ∧ v.status = 0x0003) ∧
  (∀ i dev reg count s t u, (i = .buildWm dev reg count ∨ i = .buildWmImp dev reg) → exec i s = .next t →
    t.status = 0x0002 → u.ilen = t.olen →
    (∀ k, k < t.olen.toNat → u.mem.read .ibuf k = t.mem.read .obuf k) →
    ∃ v, exec .parseWm u = .next v ∧ v.status = 0x0003) ∧
  (∀ addr values u, HoldsInput u (frameOf ([addr, 0x03, BitVec.ofNat 8 (2 * values.length)] ++ valueBytes values)) →
    ∃ v, exec .parseRd u = .next v ∧ v.status = 0x0004 ∧ HoldsValues v values) ∧
  (∀ i dev reg count s t u, (i = .buildRd dev reg count ∨ i = .buildRdDef dev reg) → exec i s = .next t →
    t.status = 0x0002 → u.ilen = t.olen →
    (∀ k, k < t.olen.toNat → u.mem.read .ibuf k = t.mem.read .obuf k) →
    ∃ v, exec .parseRd u = .next v ∧ v.status = 0x0207)

/-- R159: one corrupted byte of a response that was accepted gives CrcCheckFailed, or InvalidResponse when it is the
function code. -/
def Obligations.OneCorruptedByteIsDetected : Prop :=
  ∀ (i : Instr) (s t s' : State) (k : Nat) (a b : Byte),
    (i = .parseRd ∨ i = .parseWs ∨ i = .parseWm) → exec i s = .next t → (t.status = 0x0004 ∨ t.status = 0x0003) →
    s'.ilen = s.ilen → k < s.ilen.toNat → s.mem.read .ibuf k = some (.bits8 a) → s'.mem.read .ibuf k = some (.bits8 b) →
    a ≠ b → (∀ j, j ≠ k → s'.mem.read .ibuf j = s.mem.read .ibuf j) →
    ∃ t', exec i s' = .next t' ∧ (k ≠ 1 → t'.status = 0x0307) ∧ (k = 1 → t'.status = 0x0207)

/-! ## Priority and STATUS -/

/-- R203: the outcome of every command word in every state is that of the first cause in the rule's order. -/
def Obligations.FirstCauseDecidesTheOutcome : Prop :=
  ∀ (w : Word) (s : State),
    match verdict w s with
    | .fault b i => command w s = .fault (.unwrittenRead b i)
    | .completes v => ∃ t, command w s = .next t ∧ t.status = v
    | .keepsStatus => command w s = .next { s with cmd := w }

/-- R26: every command except a NOP that completes without error writes STATUS: its outcome is the same whatever STATUS
held before. -/
def Obligations.EveryCommandButNopWritesStatus : Prop :=
  (∀ (w : Word) (s : State) (v : Half), w ≠ 0 → command w { s with status := v } = command w s) ∧
  (∀ (w : Word) (s t : State), w ≠ 0 → command w s = .next t → t.status ≠ 0) ∧
  (∀ s, command 0 s = .next { s with cmd := 0 })

/-- R25, R202: which instruction reports which STATUS. -/
def Obligations.EachInstructionReportsItsOwnStatusValues : Prop :=
  ∀ (i : Instr) (s t : State), exec i s = .next t →
    match i with
    | .nop => t.status = s.status
    | .crcInit => t.status = 0x0001
    | .crcUpdate _ => t.status = 0x0001
    | .crcBlock => t.status = 0x0001
    | .buildRd _ _ _ => t.status = 0x0002 ∨ t.status = 0x0107
    | .buildRdDef _ _ => t.status = 0x0002 ∨ t.status = 0x0107
    | .buildWs _ _ _ => t.status = 0x0002 ∨ t.status = 0x0107
    | .buildWm _ _ _ => t.status = 0x0002 ∨ t.status = 0x0107
    | .buildWmImp _ _ => t.status = 0x0002 ∨ t.status = 0x0107
    | .parseRd => t.status = 0x0004 ∨ t.status = 0x0207 ∨ t.status = 0x0307
    | .parseWs => t.status = 0x0003 ∨ t.status = 0x0207 ∨ t.status = 0x0307
    | .parseWm => t.status = 0x0003 ∨ t.status = 0x0207 ∨ t.status = 0x0307

/-! ## Invariants -/

/-- R38: the reset values. -/
def Obligations.ResetStateHoldsTheResetValues : Prop :=
  State.reset.cmd = 0 ∧ State.reset.status = 0x0000 ∧ State.reset.crc = 0xFFFF ∧ State.reset.ilen = 0 ∧
  State.reset.wcount = 0 ∧ State.reset.olen = 0 ∧ State.reset.rcount = 0 ∧
  (∀ b i, State.reset.mem.read b i = none)

/-- The invariants hold at reset. -/
def Obligations.InvariantsHoldAtReset : Prop := State.reset.Inv ∧ State.reset.FrameInv

/-- Every step keeps the legal states: STATUS one of its values, the lengths within capacity, memory in canonical form
and within the buffers' indices, OBUF and RVAL filled exactly to OLEN and RCOUNT. The canonical form is the model's
(notes/assumptions/9.md). -/
def Obligations.EveryStepKeepsTheLegalStates : Prop :=
  ∀ s t : State, s.Inv → step s = .next t → t.Inv

/-- Every step keeps OBUF either empty of a frame or holding a whole request frame with its CRC. -/
def Obligations.EveryStepKeepsTheOutputAWholeFrame : Prop :=
  ∀ s t : State, s.FrameInv → step s = .next t → t.FrameInv

/-- R230: the reset input gives every register its reset value and empties the buffers; the marks are kept. -/
def Obligations.ResetInputRestoresTheResetValues : Prop :=
  ∀ s : State, ∃ t, act .reset s = .next t ∧
    t.cmd = 0 ∧ t.status = 0x0000 ∧ t.crc = 0xFFFF ∧ t.ilen = 0 ∧ t.wcount = 0 ∧ t.olen = 0 ∧ t.rcount = 0 ∧
    (∀ b i, t.mem.read b i = none) ∧ t.faultMark = s.faultMark ∧ t.refusalMark = s.refusalMark

/-! ## Frames -/

/-- NOP, CRC.INIT, CRC.UPDATE and CRC.BLOCK store nothing: every element of every buffer reads as before, and no register
changes but CRC and STATUS (NOP: none). -/
def Obligations.FrameOfThePlainCommands : Prop :=
  ∀ (i : Instr) (s t : State), (i = .nop ∨ i = .crcInit ∨ (∃ b, i = .crcUpdate b) ∨ i = .crcBlock) →
    exec i s = .next t →
    SameMemory s t ∧ SameInputs s t ∧ SameRun s t ∧ t.olen = s.olen ∧ t.rcount = s.rcount ∧
      (i = .nop → t.crc = s.crc ∧ t.status = s.status)

/-- The BUILD forms store to OBUF only (all of it: the frame, and no value beyond it): every element of the other buffers
reads as before, and no register changes but OLEN, STATUS and, on success, CRC. -/
def Obligations.FrameOfTheBuildCommands : Prop :=
  ∀ (i : Instr) (s t : State),
    ((∃ dev reg count, i = .buildRd dev reg count) ∨ (∃ dev reg, i = .buildRdDef dev reg) ∨
      (∃ dev reg value, i = .buildWs dev reg value) ∨ (∃ dev reg count, i = .buildWm dev reg count) ∨
      (∃ dev reg, i = .buildWmImp dev reg)) →
    exec i s = .next t →
    SameBuffer .ibuf s t ∧ SameBuffer .wdata s t ∧ SameBuffer .rval s t ∧ NothingFrom t.mem .obuf t.olen.toNat ∧
      SameInputs s t ∧ SameRun s t ∧ t.rcount = s.rcount ∧ (t.status = 0x0107 → t.crc = s.crc)

/-- The PARSE forms store to RVAL only: every element of the other buffers reads as before, and no register changes but
RCOUNT, STATUS and CRC. -/
def Obligations.FrameOfTheParseCommands : Prop :=
  ∀ (i : Instr) (s t : State), (i = .parseRd ∨ i = .parseWs ∨ i = .parseWm) → exec i s = .next t →
    SameBuffer .ibuf s t ∧ SameBuffer .wdata s t ∧ SameBuffer .obuf s t ∧ NothingFrom t.mem .rval t.rcount.toNat ∧
      SameInputs s t ∧ SameRun s t ∧ t.olen = s.olen

/-- R27: CRC is written only by the CRC commands, a BUILD that succeeds, with the CRC of the body, and a PARSE that reaches
the CRC check (so past the length and the echo check), with the CRC of the received body. No rejected word, no host access
but a command, and in particular no host write of CRC changes it. -/
def Obligations.OnlyTheNamedCommandsWriteCrc : Prop :=
  (∀ (i : Instr) (s t : State), exec i s = .next t →
    match i with
    | .nop => t.crc = s.crc
    | .crcInit => t.crc = 0xFFFF
    | .crcUpdate b => t.crc = crcStep s.crc b
    | .crcBlock => ∃ bytes, HoldsInput s bytes ∧ t.crc = crc16 bytes
    | .buildRd _ _ _ => CrcAfterBuild s t
    | .buildRdDef _ _ => CrcAfterBuild s t
    | .buildWs _ _ _ => CrcAfterBuild s t
    | .buildWm _ _ _ => CrcAfterBuild s t
    | .buildWmImp _ _ => CrcAfterBuild s t
    | .parseRd => CrcAfterParse 0x03 s t
    | .parseWs => CrcAfterParse 0x06 s t
    | .parseWm => CrcAfterParse 0x10 s t) ∧
  (∀ (w : Word) (r : Reject) (s t : State), decode w = .error r → command w s = .next t → t.crc = s.crc) ∧
  (∀ (a : HostAccess) (s t : State), (∀ v, a ≠ .writeReg .cmd v) → access a s = .next t → t.crc = s.crc) ∧
  (∀ (v : Nat) (s : State), access (.writeReg .crc v) s = .refused .hostViolation)

/-- Commands read IBUF only below ILEN and WDATA only below WCOUNT: replacing the elements above changes nothing but those
elements in the outcome (R129, R155). -/
def Obligations.CommandsReadOnlyBelowTheirLengths : Prop :=
  ∀ (i : Instr) (s : State) (c : Cells 8) (d : Cells 16),
    (∀ k, k < s.ilen.toNat → readCell c k = readCell s.mem.ibuf k) →
    (∀ k, k < s.wcount.toNat → readCell d k = readCell s.mem.wdata k) →
    exec i { s with mem := { s.mem with ibuf := c, wdata := d } } =
      match exec i s with
      | .next t => .next { t with mem := { t.mem with ibuf := c, wdata := d } }
      | .fault f => .fault f
      | .refused r => .refused r

/-! ## The host interface -/

/-- R52, R65: exactly the listed accesses are refused as HostViolation, exactly the second agent's as MultiHost, and no
command is refused. That a second agent's access is an action of the run is the model's (notes/assumptions/8.md). -/
def Obligations.ExactlyTheListedActionsAreRefused : Prop :=
  (∀ (e : Event) (s : State) (r : Refusal), act e s = .refused r ↔
    (r = .hostViolation ∧ ∃ a, e = .access a ∧ IsHostViolation s.cfg a) ∨
      (r = .multiHost ∧ ∃ a, e = .secondAgent a)) ∧
  (∀ (w : Word) (s : State) (r : Refusal), command w s ≠ .refused r)

/-- R51: what the four host accesses do when they are not violations. That what a read returned is put in front of
`replies`, a field of the model's own, is its choice (notes/assumptions/2.md). -/
def Obligations.HostAccessesMoveOneElementOrRegister : Prop :=
  (∀ s w, access (.writeReg .cmd (BitVec.toNat w)) s = command w s) ∧
  (∀ s v, v < 2 ^ 16 → v ≤ s.cfg.ibufCap →
    access (.writeReg .ilen v) s = .next { s with ilen := BitVec.ofNat 16 v }) ∧
  (∀ s v, v < 2 ^ 8 → access (.writeReg .wcount v) s = .next { s with wcount := BitVec.ofNat 8 v }) ∧
  (∀ s r, ∃ v, access (.readReg r) s = .next { s with replies := v :: s.replies } ∧
    match r with
    | .cmd => v = .bits64 s.cmd
    | .status => v = .bits16 s.status
    | .crc => v = .bits16 s.crc
    | .ilen => v = .bits16 s.ilen
    | .wcount => v = .bits8 s.wcount
    | .olen => v = .bits16 s.olen
    | .rcount => v = .bits16 s.rcount) ∧
  (∀ s b i v, ¬IsHostViolation s.cfg (.writeBuf b i v) → ∃ t, access (.writeBuf b i v) s = .next t ∧
    t.mem.read b i = some (match b with | .wdata => .bits16 (BitVec.ofNat 16 v) | _ => .bits8 (BitVec.ofNat 8 v)) ∧
    (∀ b' k, (b' ≠ b ∨ k ≠ i) → t.mem.read b' k = s.mem.read b' k) ∧ t = { s with mem := t.mem }) ∧
  (∀ s b i v, ¬IsHostViolation s.cfg (.readBuf b i) → s.mem.read b i = some v →
    access (.readBuf b i) s = .next { s with replies := v :: s.replies })

/-- R53: an action faults only on an element that holds no value: the one the host reads, or one below the length of the
command it writes. And the host's read of such an element does fault. -/
def Obligations.FaultsAreReadsOfElementsThatHoldNoValue : Prop :=
  (∀ (e : Event) (s : State) (b : Buffer) (i : Nat), act e s = .fault (.unwrittenRead b i) →
    s.mem.read b i = none ∧
      (e = .access (.readBuf b i) ∨
        ∃ w : Word, e = .access (.writeReg .cmd w.toNat) ∧
          ((b = .ibuf ∧ i < s.ilen.toNat) ∨ (b = .wdata ∧ i < s.wcount.toNat)))) ∧
  (∀ (s : State) (b : Buffer) (i : Nat), ¬IsHostViolation s.cfg (.readBuf b i) → s.mem.read b i = none →
    act (.access (.readBuf b i)) s = .fault (.unwrittenRead b i))

/-- R89: LOADI and LOADW leave exactly their bytes and values as a command's input, and touch nothing else. -/
def Obligations.LoadingFillsTheInputs : Prop :=
  (∀ s bytes es, s.cfg.Legal → asmLoadI s.cfg bytes = some es →
    ∃ t, actAll es s = .next t ∧ HoldsInput t bytes ∧ (∀ k, bytes.length ≤ k → t.mem.read .ibuf k = s.mem.read .ibuf k) ∧
      t = { s with ilen := t.ilen, mem := { s.mem with ibuf := t.mem.ibuf } }) ∧
  (∀ s values es, asmLoadW values = some es →
    ∃ t, actAll es s = .next t ∧ SuppliesValues t values ∧
      (∀ k, values.length ≤ k → t.mem.read .wdata k = s.mem.read .wdata k) ∧
      t = { s with wcount := t.wcount, mem := { s.mem with wdata := t.mem.wdata } })

/-! ## Runs -/

/-- R37: the marks are empty at reset, set by the first fault or refusal, and never cleared, not even by reset; `advance`
is the step that records them (notes/assumptions/5.md). -/
def Obligations.MarksAreSetOnceAndNeverCleared : Prop :=
  (State.reset.faultMark = none ∧ State.reset.refusalMark = none) ∧
  (∀ s f, s.faultMark = some f → (advance s).faultMark = some f) ∧
  (∀ s r, s.refusalMark = some r → (advance s).refusalMark = some r) ∧
  (∀ s f, s.faultMark = none → step s = .fault f → (advance s).faultMark = some f) ∧
  (∀ s r, s.refusalMark = none → step s = .refused r → (advance s).refusalMark = some r) ∧
  (∀ s t, step s = .next t → t.faultMark = s.faultMark ∧ t.refusalMark = s.refusalMark)

/-- R185: a run from an unmarked state ends unmarked exactly when no step of it stopped, and then both ways of running it
end in the same state. How a marked run goes on past a stop is the model's
(notes/assumptions/5.md, notes/assumptions/6.md). -/
def Obligations.UnmarkedRunsAreTheSafeRuns : Prop :=
  ∀ (k : Nat) (s : State), s.unmarked = true →
    ((advanceBy k s).unmarked = true ↔ SafeRun k s) ∧
      ∀ t, Host.Core.run Sys2Proof.core k s = .next t → advanceBy k s = t
end

