-- ==== Sys2Proof/Laws/Bytes.lean ====
section
/-! SUPPORT. The laws of byte order (R54, R55, R107, R121, R122), of the CRC engine's primitives (R100, R101), and the values
STATUS takes (R25). -/

namespace Sys2Proof.Machine

/-! ## Byte order -/

@[simp] theorem be16_length (v : Half) : (be16 v).length = 2 := rfl

@[simp] theorem crcBytes_length (c : Half) : (crcBytes c).length = 2 := rfl

/-- R54: the two bytes of a value, put together again. -/
@[simp] theorem halfOfBytes_be16 (v : Half) :
    halfOfBytes (v.extractLsb' 8 8) (v.extractLsb' 0 8) = v := by
  simp only [halfOfBytes]
  ext i hi
  by_cases h : i < 8
  · simp [h, BitVec.getLsbD_eq_getElem hi]
  · simp [h, show i - 8 < 8 by omega, show 8 + (i - 8) = i by omega, BitVec.getLsbD_eq_getElem hi]

/-- R107: the two bytes of a CRC, put together again. -/
@[simp] theorem crcOfBytes_crcBytes (c : Half) :
    crcOfBytes (c.extractLsb' 0 8) (c.extractLsb' 8 8) = c := by
  simp only [crcOfBytes]
  ext i hi
  by_cases h : i < 8
  · simp [h, BitVec.getLsbD_eq_getElem hi]
  · simp [h, show i - 8 < 8 by omega, show 8 + (i - 8) = i by omega, BitVec.getLsbD_eq_getElem hi]

/-- R107: a received CRC determines its two bytes. -/
theorem crcOfBytes_injective {lo hi lo' hi' : Byte} (h : crcOfBytes lo hi = crcOfBytes lo' hi') :
    lo = lo' ∧ hi = hi' := by
  have bit : ∀ i, (crcOfBytes lo hi).getLsbD i = (crcOfBytes lo' hi').getLsbD i := fun i => by rw [h]
  constructor
  · ext i hi
    simpa [crcOfBytes, hi, show i < 16 by omega] using bit i
  · ext i hi'
    have := bit (i + 8)
    simpa [crcOfBytes, BitVec.getLsbD_of_ge lo (i + 8) (by omega), BitVec.getLsbD_of_ge lo' (i + 8) (by omega),
      show i + 8 < 16 by omega, hi'] using this

@[simp] theorem pack_length (vs : List Half) : (pack vs).length = 2 * vs.length := by
  induction vs with
  | nil => rfl
  | cons v vs ih => simp [pack, ih]; omega

/-- R122, R151: pairing what the packer packed gives the values back. -/
@[simp] theorem pairValues_pack (vs : List Half) : pairValues (pack vs) = vs := by
  induction vs with
  | nil => rfl
  | cons v vs ih => simp [pack, be16, pairValues, ih]

theorem pairValues_length (bytes : List Byte) : (pairValues bytes).length = bytes.length / 2 := by
  induction bytes using pairValues.induct with
  | case1 hi lo rest ih => simp [pairValues, ih]; omega
  | case2 => simp [pairValues]
  | case3 => simp [pairValues]

/-! ## The CRC engine -/

@[simp] theorem crcFrom_append (c : Half) (s t : List Byte) : crcFrom c (s ++ t) = crcFrom (crcFrom c s) t := by
  induction s generalizing c with
  | nil => rfl
  | cons b s ih => exact ih (crcStep c b)

/-- R100: bit `i` of one shift step. -/
theorem getLsbD_crcShift (c : Half) (i : Nat) :
    (crcShift c).getLsbD i = Bool.xor (c.getLsbD (i + 1)) (c.getLsbD 0 && (0xA001 : Half).getLsbD i) := by
  unfold crcShift
  cases h : c.getLsbD 0 <;> simp [Nat.add_comm]

/-- R100: a shift step loses nothing, since bit 15 of the result is the bit shifted out. -/
theorem crcShift_injective {c d : Half} (h : crcShift c = crcShift d) : c = d := by
  have bit : ∀ i, (crcShift c).getLsbD i = (crcShift d).getLsbD i := fun i => by rw [h]
  simp only [getLsbD_crcShift] at bit
  have h0 : c.getLsbD 0 = d.getLsbD 0 := by
    have h15 := bit 15
    rw [BitVec.getLsbD_of_ge c 16 (by omega), BitVec.getLsbD_of_ge d 16 (by omega)] at h15
    simpa using h15
  apply BitVec.eq_of_getLsbD_eq
  intro i hi
  cases i with
  | zero => exact h0
  | succ i =>
    have hb := bit i
    rw [h0] at hb
    simpa using hb

theorem crcShifts_injective (n : Nat) {c d : Half} (h : crcShifts n c = crcShifts n d) : c = d := by
  induction n generalizing c d with
  | zero => exact h
  | succ n ih => exact crcShift_injective (ih h)

/-- R100: different accumulators stay different over one byte. -/
theorem crcStep_injective_left {c d : Half} {b : Byte} (h : crcStep c b = crcStep d b) : c = d := by
  have := crcShifts_injective 8 h
  exact (BitVec.xor_left_inj _).mp this

/-- R100: different bytes give different accumulators. -/
theorem crcStep_injective_right {c : Half} {a b : Byte} (h : crcStep c a = crcStep c b) : a = b := by
  have hx := (BitVec.xor_right_inj _).mp (crcShifts_injective 8 h)
  apply BitVec.eq_of_getLsbD_eq
  intro i hi
  have := congrArg (fun v : Half => v.getLsbD i) hx
  simpa [show i < 16 by omega] using this

/-- R101: different accumulators stay different over any bytes. -/
theorem crcFrom_injective {c d : Half} {s : List Byte} (h : crcFrom c s = crcFrom d s) : c = d := by
  induction s generalizing c d with
  | nil => exact h
  | cons b s ih => exact crcStep_injective_left (ih h)

/-- R100: with the low byte clear the eight steps are a plain shift by eight. -/
theorem crcShifts_plain (n : Nat) {c : Half} (h : ∀ i, i < n → c.getLsbD i = false) : crcShifts n c = c >>> n := by
  induction n generalizing c with
  | zero => simp [crcShifts]
  | succ n ih =>
    have h0 : c.getLsbD 0 = false := h 0 (by omega)
    have hs : crcShift c = c >>> 1 := by simp only [crcShift, h0]; rfl
    rw [crcShifts, hs, ih, ← BitVec.shiftRight_add, Nat.add_comm]
    intro i hi
    simpa [Nat.add_comm] using h (i + 1) (by omega)

/-! ## STATUS -/

theorem successStatus_values :
    successStatus .none = 0x0000 ∧ successStatus .crc = 0x0001 ∧ successStatus .frame = 0x0002 ∧
      successStatus .success = 0x0003 ∧ successStatus .values = 0x0004 := by decide

theorem errorStatus_values :
    errorStatus .invalidCommand = 0x0107 ∧ errorStatus .invalidResponse = 0x0207 ∧
      errorStatus .crcCheckFailed = 0x0307 := by decide

@[simp] theorem successStatus_crc : successStatus .crc = 0x0001 := by decide
@[simp] theorem successStatus_frame : successStatus .frame = 0x0002 := by decide
@[simp] theorem successStatus_success : successStatus .success = 0x0003 := by decide
@[simp] theorem successStatus_values' : successStatus .values = 0x0004 := by decide
@[simp] theorem errorStatus_invalidCommand : errorStatus .invalidCommand = 0x0107 := by decide
@[simp] theorem errorStatus_invalidResponse : errorStatus .invalidResponse = 0x0207 := by decide
@[simp] theorem errorStatus_crcCheckFailed : errorStatus .crcCheckFailed = 0x0307 := by decide

end Sys2Proof.Machine
end

