-- ==== Sys2Proof/Laws/Cells.lean ====
section
/-! SUPPORT. The laws of buffers: a read after a write, after a sequence of writes and after an invalidation; that every
operation keeps the canonical form; that equal contents are equal data; and what `readCells` answers. -/

namespace Sys2Proof.Machine

variable {width : Nat}

/-! ## One element -/

@[simp] theorem readCell_nil (i : Nat) : readCell ([] : Cells width) i = none := rfl

theorem readCell_writeCell (c : Cells width) (i j : Nat) (v : BitVec width) :
    readCell (writeCell c i v) j = if j = i then some v else readCell c j := by
  induction c with
  | nil => simp [writeCell, readCell]
  | cons cell rest ih =>
    obtain ⟨k, x⟩ := cell
    simp only [writeCell]
    split
    · simp [readCell]
    · split
      · rename_i hik
        subst hik
        by_cases h : j = i <;> simp [readCell, h]
      · rename_i hik
        by_cases h : j = k
        · subst h
          simp [readCell, Ne.symm hik]
        · simp [readCell, h, ih]

@[simp] theorem readCell_writeCell_same (c : Cells width) (i : Nat) (v : BitVec width) :
    readCell (writeCell c i v) i = some v := by simp [readCell_writeCell]

theorem readCell_writeCell_other (c : Cells width) {i j : Nat} (v : BitVec width) (h : j ≠ i) :
    readCell (writeCell c i v) j = readCell c j := by simp [readCell_writeCell, h]

/-! ## Sequences of elements -/

theorem readCell_writeCells (c : Cells width) (i j : Nat) (vs : List (BitVec width)) :
    readCell (writeCells c i vs) j =
      if i ≤ j ∧ j < i + vs.length then vs[j - i]? else readCell c j := by
  induction vs generalizing c i with
  | nil =>
    simp [writeCells]
  | cons v vs ih =>
    simp only [writeCells, ih, readCell_writeCell, List.length_cons]
    by_cases hj : j = i
    · subst hj
      simp
    · by_cases h : i + 1 ≤ j ∧ j < i + 1 + vs.length
      · have h2 : i ≤ j ∧ j < i + (vs.length + 1) := by omega
        have h3 : j - i = (j - (i + 1)) + 1 := by omega
        simp only [h, h2, and_self, if_true]
        rw [h3, List.getElem?_cons_succ]
      · have h2 : ¬(i ≤ j ∧ j < i + (vs.length + 1)) := by omega
        rw [if_neg h, if_neg h2, if_neg hj]

theorem readCell_invalidateFrom (c : Cells width) (k j : Nat) :
    readCell (invalidateFrom c k) j = if j < k then readCell c j else none := by
  induction c with
  | nil => simp [invalidateFrom]
  | cons cell rest ih =>
    obtain ⟨i, x⟩ := cell
    simp only [invalidateFrom] at ih
    by_cases hik : i < k
    · simp only [invalidateFrom, List.filter_cons, hik, decide_true, if_true, readCell, ih]
      by_cases hji : j = i
      · subst hji; simp [hik]
      · simp [hji]
    · simp only [invalidateFrom, List.filter_cons, hik, decide_false, Bool.false_eq_true, if_false, readCell, ih]
      by_cases hji : j = i
      · subst hji; simp [hik]
      · simp [hji]

/-- R34, R35: after `MemWrite(B:0, n, vs)` and `invalidate(B, n)` the buffer holds exactly `vs`. -/
@[simp] theorem readCell_store (c : Cells width) (vs : List (BitVec width)) (j : Nat) :
    readCell (invalidateFrom (writeCells c 0 vs) vs.length) j = vs[j]? := by
  simp only [readCell_invalidateFrom, readCell_writeCells]
  by_cases h : j < vs.length
  · simp [h]
  · simp [h]

@[simp] theorem readCell_invalidate_all (c : Cells width) (j : Nat) :
    readCell (invalidateFrom c 0) j = none := by simp [readCell_invalidateFrom]

/-- `readCells` answers exactly the elements, when all of them hold a value. -/
theorem readCells_eq_ok_iff (c : Cells width) (i n : Nat) (vs : List (BitVec width)) :
    readCells c i n = .ok vs ↔ vs.length = n ∧ ∀ k, k < n → readCell c (i + k) = vs[k]? := by
  induction n generalizing i vs with
  | zero =>
    simp only [readCells, Except.ok.injEq]
    constructor
    · rintro rfl; simp
    · rintro ⟨h, -⟩; exact (List.length_eq_zero_iff.mp h).symm
  | succ n ih =>
    simp only [readCells]
    constructor
    · intro h
      split at h
      · cases h
      · rename_i v hv
        split at h
        · cases h
        · rename_i ws hws
          cases h
          obtain ⟨hl, hk⟩ := (ih (i + 1) ws).mp hws
          refine ⟨by simp [hl], fun k hkn => ?_⟩
          cases k with
          | zero => simp [hv]
          | succ k =>
            have := hk k (by omega)
            rw [show i + (k + 1) = i + 1 + k by omega, this]
            simp
    · rintro ⟨hl, hk⟩
      cases vs with
      | nil => simp at hl
      | cons v vs =>
        have h0 := hk 0 (by omega)
        simp only [Nat.add_zero, List.getElem?_cons_zero] at h0
        have hrest : readCells c (i + 1) n = .ok vs :=
          (ih (i + 1) vs).mpr ⟨by simpa using hl, fun k hkn => by
            have := hk (k + 1) (by omega)
            rw [show i + (k + 1) = i + 1 + k by omega] at this
            simpa using this⟩
        simp [h0, hrest]

/-- `readCells` names the first element that holds no value (R53). -/
theorem readCells_eq_error_iff (c : Cells width) (i n j : Nat) :
    readCells c i n = .error j ↔
      i ≤ j ∧ j < i + n ∧ readCell c j = none ∧ ∀ k, i ≤ k → k < j → (readCell c k).isSome = true := by
  induction n generalizing i with
  | zero =>
    simp only [readCells]
    constructor
    · intro h; cases h
    · rintro ⟨h1, h2, -⟩; omega
  | succ n ih =>
    simp only [readCells]
    cases hv : readCell c i with
    | none =>
      simp only [Except.error.injEq]
      constructor
      · rintro rfl
        exact ⟨Nat.le_refl _, by omega, hv, fun k h1 h2 => by omega⟩
      · rintro ⟨h1, h2, -, h4⟩
        by_contra hne
        have := h4 i (Nat.le_refl _) (by omega)
        simp [hv] at this
    | some v =>
      have key : (match readCells c (i + 1) n with
          | .error j => (.error j : Except Nat (List (BitVec width)))
          | .ok vs => .ok (v :: vs)) = .error j ↔ readCells c (i + 1) n = .error j := by
        split <;> simp_all
      dsimp only
      refine Iff.trans key ((ih (i + 1)).trans ?_)
      constructor
      · rintro ⟨h1, h2, h3, h4⟩
        refine ⟨by omega, by omega, h3, fun k hk1 hk2 => ?_⟩
        by_cases hki : k = i
        · simp [hki, hv]
        · exact h4 k (by omega) hk2
      · rintro ⟨h1, h2, h3, h4⟩
        have : i ≠ j := by rintro rfl; simp [hv] at h3
        exact ⟨by omega, by omega, h3, fun k hk1 hk2 => h4 k (by omega) hk2⟩

/-- `readCells` depends only on the elements it reads. -/
theorem readCells_congr {c d : Cells width} {i n : Nat}
    (h : ∀ k, i ≤ k → k < i + n → readCell c k = readCell d k) : readCells c i n = readCells d i n := by
  induction n generalizing i with
  | zero => rfl
  | succ n ih =>
    simp only [readCells]
    rw [h i (Nat.le_refl _) (by omega), ih (fun k h1 h2 => h k (by omega) (by omega))]

/-- R34: reading back what was stored gives it. -/
theorem readCells_store (c : Cells width) (vs : List (BitVec width)) :
    readCells (invalidateFrom (writeCells c 0 vs) vs.length) 0 vs.length = .ok vs :=
  (readCells_eq_ok_iff _ _ _ _).mpr ⟨rfl, fun k _ => by simp⟩

/-! ## The canonical form -/

theorem cellsWf_tail {cell : Nat × BitVec width} {rest : Cells width} (h : cellsWf (cell :: rest) = true) :
    cellsWf rest = true := by
  cases rest with
  | nil => rfl
  | cons cell' rest' => simp only [cellsWf, Bool.and_eq_true] at h; exact h.2

theorem readCell_none_of_lt_head {j i : Nat} {x : BitVec width} {rest : Cells width}
    (h : cellsWf ((i, x) :: rest) = true) (hj : j < i) : readCell ((i, x) :: rest) j = none := by
  induction rest generalizing i x with
  | nil => simp [readCell, Nat.ne_of_lt hj]
  | cons cell rest ih =>
    obtain ⟨k, y⟩ := cell
    simp only [cellsWf, Bool.and_eq_true, decide_eq_true_eq] at h
    have := ih h.2 (by omega)
    rw [readCell, if_neg (by omega), this]

theorem cellsWf_cons_of_head {i : Nat} {x : BitVec width} {rest : Cells width} (hr : cellsWf rest = true)
    (h : ∀ cell ∈ rest.head?, i < cell.1) : cellsWf ((i, x) :: rest) = true := by
  cases rest with
  | nil => rfl
  | cons cell rest' =>
    obtain ⟨k, y⟩ := cell
    simp only [cellsWf, Bool.and_eq_true, decide_eq_true_eq]
    exact ⟨h (k, y) (by simp), hr⟩

theorem head_writeCell (c : Cells width) (i : Nat) (v : BitVec width) :
    ∀ cell ∈ (writeCell c i v).head?, cell.1 = i ∨ ∃ cell' ∈ c.head?, cell.1 = cell'.1 := by
  cases c with
  | nil => simp [writeCell]
  | cons cell rest =>
    obtain ⟨k, y⟩ := cell
    simp only [writeCell]
    split
    · simp
    · split <;> simp

theorem cellsWf_writeCell {c : Cells width} (h : cellsWf c = true) (i : Nat) (v : BitVec width) :
    cellsWf (writeCell c i v) = true := by
  induction c with
  | nil => rfl
  | cons cell rest ih =>
    obtain ⟨k, y⟩ := cell
    simp only [writeCell]
    split
    · rename_i hik
      exact cellsWf_cons_of_head h (by simpa using hik)
    · split
      · rename_i hik
        subst hik
        cases rest with
        | nil => rfl
        | cons cell' rest' => simpa only [cellsWf] using h
      · have hrest := ih (cellsWf_tail h)
        refine cellsWf_cons_of_head hrest fun cell hcell => ?_
        rcases head_writeCell rest i v cell hcell with h1 | ⟨cell', hc, h1⟩
        · omega
        · cases rest with
          | nil => simp at hc
          | cons cell'' rest' =>
            simp only [List.head?_cons, Option.mem_def, Option.some.injEq] at hc
            subst hc
            simp only [cellsWf, Bool.and_eq_true, decide_eq_true_eq] at h
            omega

theorem cellsWf_writeCells {c : Cells width} (h : cellsWf c = true) (i : Nat) (vs : List (BitVec width)) :
    cellsWf (writeCells c i vs) = true := by
  induction vs generalizing c i with
  | nil => exact h
  | cons v vs ih => exact ih (cellsWf_writeCell h i v) (i + 1)

theorem cellsWf_lt_of_mem {i : Nat} {x : BitVec width} {rest : Cells width} (h : cellsWf ((i, x) :: rest) = true) :
    ∀ cell ∈ rest, i < cell.1 := by
  induction rest generalizing i x with
  | nil => simp
  | cons cell rest ih =>
    obtain ⟨k, y⟩ := cell
    simp only [cellsWf, Bool.and_eq_true, decide_eq_true_eq] at h
    intro cell' hcell
    rcases List.mem_cons.mp hcell with rfl | hm
    · exact h.1
    · have := ih h.2 cell' hm; omega

theorem cellsWf_invalidateFrom {c : Cells width} (h : cellsWf c = true) (k : Nat) :
    cellsWf (invalidateFrom c k) = true := by
  induction c with
  | nil => rfl
  | cons cell rest ih =>
    obtain ⟨i, x⟩ := cell
    have hrest := ih (cellsWf_tail h)
    simp only [invalidateFrom, List.filter_cons] at hrest ⊢
    split
    · refine cellsWf_cons_of_head hrest fun cell hcell => ?_
      exact cellsWf_lt_of_mem h cell (List.mem_of_mem_filter (List.mem_of_mem_head? hcell))
    · exact hrest

/-- Canonical buffers that read alike are the same data. -/
theorem cells_ext {c d : Cells width} (hc : cellsWf c = true) (hd : cellsWf d = true)
    (h : ∀ i, readCell c i = readCell d i) : c = d := by
  induction c generalizing d with
  | nil =>
    cases d with
    | nil => rfl
    | cons cell rest => obtain ⟨k, y⟩ := cell; have := h k; simp [readCell] at this
  | cons cell rest ih =>
    obtain ⟨i, x⟩ := cell
    cases d with
    | nil => have := h i; simp [readCell] at this
    | cons cell' rest' =>
      obtain ⟨k, y⟩ := cell'
      have hik : i = k := by
        rcases Nat.lt_trichotomy i k with hlt | heq | hgt
        · have h1 := h i
          rw [readCell_none_of_lt_head hd hlt] at h1
          simp [readCell] at h1
        · exact heq
        · have h1 := h k
          rw [readCell_none_of_lt_head hc hgt] at h1
          simp [readCell] at h1
      subst hik
      have hxy : x = y := by simpa [readCell] using h i
      subst hxy
      have hr : rest = rest' := by
        refine ih (cellsWf_tail hc) (cellsWf_tail hd) fun j => ?_
        by_cases hj : j = i
        · subst hj
          have none_at : ∀ {l : Cells width}, cellsWf ((j, x) :: l) = true → readCell l j = none := by
            intro l hl
            cases l with
            | nil => rfl
            | cons cell l' =>
              obtain ⟨m, z⟩ := cell
              simp only [cellsWf, Bool.and_eq_true, decide_eq_true_eq] at hl
              exact readCell_none_of_lt_head hl.2 hl.1
          rw [none_at hc, none_at hd]
        · simpa [readCell, hj] using h j
      rw [hr]

end Sys2Proof.Machine
end

