-- ==== Sys2Proof/Laws/Decode.lean ====
section
/-! SUPPORT. The laws of the command word: what a reserved-zero mask says about the word's bits (R75), and the two answers
of a form's reserved-bit check. -/

namespace Sys2Proof

/-! ## Reserved-zero masks as bit ranges -/

theorem and_mask_eq_zero_iff (w m : Word) :
    w &&& m = 0 ↔ ∀ i, i < 64 → m.getLsbD i = true → w.getLsbD i = false := by
  constructor
  · intro h i _ hm
    have := congrArg (fun v : Word => v.getLsbD i) h
    simpa [hm] using this
  · intro h
    apply BitVec.eq_of_getLsbD_eq
    intro i hi
    cases hm : m.getLsbD i with
    | false => simp [hm]
    | true => simpa [hm] using h i hi hm

/-- A mask of the `len` bits from `lo` tests that field of the word. -/
theorem and_range_mask_eq_zero_iff (w m : Word) (lo len : Nat) (hl : lo + len ≤ 64)
    (hm : ∀ i, i < 64 → m.getLsbD i = (decide (lo ≤ i) && decide (i < lo + len))) :
    w &&& m = 0 ↔ w.extractLsb' lo len = 0 := by
  rw [and_mask_eq_zero_iff]
  constructor
  · intro h
    apply BitVec.eq_of_getLsbD_eq
    intro i hi
    have hbit : m.getLsbD (lo + i) = true := by
      rw [hm _ (by omega)]
      simp [hi]
    simpa [hi] using h (lo + i) (by omega) hbit
  · intro h i hi hmi
    rw [hm i hi] at hmi
    simp only [Bool.and_eq_true, decide_eq_true_eq] at hmi
    have := congrArg (fun v : BitVec len => v.getLsbD (i - lo)) h
    simpa [show i - lo < len by omega, show lo + (i - lo) = i by omega] using this

theorem and_maskN (w : Word) : w &&& maskN = 0 ↔ w.extractLsb' 8 56 = 0 :=
  and_range_mask_eq_zero_iff w _ 8 56 (by omega) (by decide)

theorem and_maskU (w : Word) : w &&& maskU = 0 ↔ w.extractLsb' 16 48 = 0 :=
  and_range_mask_eq_zero_iff w _ 16 48 (by omega) (by decide)

theorem and_maskCounted (w : Word) : w &&& maskCounted = 0 ↔ w.extractLsb' 25 7 = 0 :=
  and_range_mask_eq_zero_iff w _ 25 7 (by omega) (by decide)

theorem and_maskWs (w : Word) : w &&& maskWs = 0 ↔ w.extractLsb' 24 8 = 0 :=
  and_range_mask_eq_zero_iff w _ 24 8 (by omega) (by decide)

theorem and_maskP (w : Word) : w &&& maskP = 0 ↔ w.extractLsb' 16 48 = 0 :=
  and_range_mask_eq_zero_iff w _ 16 48 (by omega) (by decide)

theorem and_maskUncounted (w : Word) :
    w &&& maskUncounted = 0 ↔ w.extractLsb' 48 16 = 0 ∧ w.extractLsb' 25 7 = 0 := by
  have hArg : w &&& 0xFFFF000000000000 = 0 ↔ w.extractLsb' 48 16 = 0 :=
    and_range_mask_eq_zero_iff w _ 48 16 (by omega) (by decide)
  have hBoth : ∀ i, maskUncounted.getLsbD i =
      ((0xFFFF000000000000 : Word).getLsbD i || maskCounted.getLsbD i) := fun i => by
    rw [← BitVec.getLsbD_or]; rfl
  rw [← hArg, ← and_maskCounted]
  simp only [and_mask_eq_zero_iff, hBoth, Bool.or_eq_true]
  exact ⟨fun h => ⟨fun i hi hm => h i hi (.inl hm), fun i hi hm => h i hi (.inr hm)⟩,
    fun h i hi hm => hm.elim (h.1 i hi) (h.2 i hi)⟩

/-! ## A form's reserved-bit check -/

theorem unlessReserved_ok {family : Family} {mask w : Word} {i : Instr} (h : w &&& mask = 0) :
    unlessReserved family mask w i = .ok i := if_pos h

theorem unlessReserved_error {family : Family} {mask w : Word} {i : Instr} (h : w &&& mask ≠ 0) :
    unlessReserved family mask w i = .error (.reservedBits family (w &&& mask)) := if_neg h

theorem unlessReserved_eq_ok {family : Family} {mask w : Word} {i j : Instr}
    (h : unlessReserved family mask w i = .ok j) : w &&& mask = 0 ∧ i = j := by
  unfold unlessReserved at h
  split at h
  · cases h; exact ⟨‹_›, rfl⟩
  · cases h

end Sys2Proof
end

