-- ==== Sys2Proof/Laws/State.lean ====
section
/-! SUPPORT. One lemma per field per named write of Machine/Ops.lean: what the write puts there, or that it leaves the field
alone. All hold by unfolding once, here. -/

namespace Sys2Proof.Machine

/-! ## latchCmd -/

@[simp] theorem latchCmd_cmd (w : Word) (s : State) : (latchCmd w s).cmd = w := rfl
@[simp] theorem latchCmd_status (w : Word) (s : State) : (latchCmd w s).status = s.status := rfl
@[simp] theorem latchCmd_crc (w : Word) (s : State) : (latchCmd w s).crc = s.crc := rfl
@[simp] theorem latchCmd_ilen (w : Word) (s : State) : (latchCmd w s).ilen = s.ilen := rfl
@[simp] theorem latchCmd_wcount (w : Word) (s : State) : (latchCmd w s).wcount = s.wcount := rfl
@[simp] theorem latchCmd_olen (w : Word) (s : State) : (latchCmd w s).olen = s.olen := rfl
@[simp] theorem latchCmd_rcount (w : Word) (s : State) : (latchCmd w s).rcount = s.rcount := rfl
@[simp] theorem latchCmd_mem (w : Word) (s : State) : (latchCmd w s).mem = s.mem := rfl
@[simp] theorem latchCmd_faultMark (w : Word) (s : State) : (latchCmd w s).faultMark = s.faultMark := rfl
@[simp] theorem latchCmd_refusalMark (w : Word) (s : State) : (latchCmd w s).refusalMark = s.refusalMark := rfl
@[simp] theorem latchCmd_cfg (w : Word) (s : State) : (latchCmd w s).cfg = s.cfg := rfl
@[simp] theorem latchCmd_script (w : Word) (s : State) : (latchCmd w s).script = s.script := rfl
@[simp] theorem latchCmd_pc (w : Word) (s : State) : (latchCmd w s).pc = s.pc := rfl
@[simp] theorem latchCmd_replies (w : Word) (s : State) : (latchCmd w s).replies = s.replies := rfl

/-! ## setStatus -/

@[simp] theorem setStatus_cmd (v : Half) (s : State) : (setStatus v s).cmd = s.cmd := rfl
@[simp] theorem setStatus_status (v : Half) (s : State) : (setStatus v s).status = v := rfl
@[simp] theorem setStatus_crc (v : Half) (s : State) : (setStatus v s).crc = s.crc := rfl
@[simp] theorem setStatus_ilen (v : Half) (s : State) : (setStatus v s).ilen = s.ilen := rfl
@[simp] theorem setStatus_wcount (v : Half) (s : State) : (setStatus v s).wcount = s.wcount := rfl
@[simp] theorem setStatus_olen (v : Half) (s : State) : (setStatus v s).olen = s.olen := rfl
@[simp] theorem setStatus_rcount (v : Half) (s : State) : (setStatus v s).rcount = s.rcount := rfl
@[simp] theorem setStatus_mem (v : Half) (s : State) : (setStatus v s).mem = s.mem := rfl
@[simp] theorem setStatus_faultMark (v : Half) (s : State) : (setStatus v s).faultMark = s.faultMark := rfl
@[simp] theorem setStatus_refusalMark (v : Half) (s : State) : (setStatus v s).refusalMark = s.refusalMark := rfl
@[simp] theorem setStatus_cfg (v : Half) (s : State) : (setStatus v s).cfg = s.cfg := rfl
@[simp] theorem setStatus_script (v : Half) (s : State) : (setStatus v s).script = s.script := rfl
@[simp] theorem setStatus_pc (v : Half) (s : State) : (setStatus v s).pc = s.pc := rfl
@[simp] theorem setStatus_replies (v : Half) (s : State) : (setStatus v s).replies = s.replies := rfl

/-! ## setCrc -/

@[simp] theorem setCrc_cmd (c : Half) (s : State) : (setCrc c s).cmd = s.cmd := rfl
@[simp] theorem setCrc_status (c : Half) (s : State) : (setCrc c s).status = s.status := rfl
@[simp] theorem setCrc_crc (c : Half) (s : State) : (setCrc c s).crc = c := rfl
@[simp] theorem setCrc_ilen (c : Half) (s : State) : (setCrc c s).ilen = s.ilen := rfl
@[simp] theorem setCrc_wcount (c : Half) (s : State) : (setCrc c s).wcount = s.wcount := rfl
@[simp] theorem setCrc_olen (c : Half) (s : State) : (setCrc c s).olen = s.olen := rfl
@[simp] theorem setCrc_rcount (c : Half) (s : State) : (setCrc c s).rcount = s.rcount := rfl
@[simp] theorem setCrc_mem (c : Half) (s : State) : (setCrc c s).mem = s.mem := rfl
@[simp] theorem setCrc_faultMark (c : Half) (s : State) : (setCrc c s).faultMark = s.faultMark := rfl
@[simp] theorem setCrc_refusalMark (c : Half) (s : State) : (setCrc c s).refusalMark = s.refusalMark := rfl
@[simp] theorem setCrc_cfg (c : Half) (s : State) : (setCrc c s).cfg = s.cfg := rfl
@[simp] theorem setCrc_script (c : Half) (s : State) : (setCrc c s).script = s.script := rfl
@[simp] theorem setCrc_pc (c : Half) (s : State) : (setCrc c s).pc = s.pc := rfl
@[simp] theorem setCrc_replies (c : Half) (s : State) : (setCrc c s).replies = s.replies := rfl

/-! ## setIlen -/

@[simp] theorem setIlen_cmd (v : Half) (s : State) : (setIlen v s).cmd = s.cmd := rfl
@[simp] theorem setIlen_status (v : Half) (s : State) : (setIlen v s).status = s.status := rfl
@[simp] theorem setIlen_crc (v : Half) (s : State) : (setIlen v s).crc = s.crc := rfl
@[simp] theorem setIlen_ilen (v : Half) (s : State) : (setIlen v s).ilen = v := rfl
@[simp] theorem setIlen_wcount (v : Half) (s : State) : (setIlen v s).wcount = s.wcount := rfl
@[simp] theorem setIlen_olen (v : Half) (s : State) : (setIlen v s).olen = s.olen := rfl
@[simp] theorem setIlen_rcount (v : Half) (s : State) : (setIlen v s).rcount = s.rcount := rfl
@[simp] theorem setIlen_mem (v : Half) (s : State) : (setIlen v s).mem = s.mem := rfl
@[simp] theorem setIlen_faultMark (v : Half) (s : State) : (setIlen v s).faultMark = s.faultMark := rfl
@[simp] theorem setIlen_refusalMark (v : Half) (s : State) : (setIlen v s).refusalMark = s.refusalMark := rfl
@[simp] theorem setIlen_cfg (v : Half) (s : State) : (setIlen v s).cfg = s.cfg := rfl
@[simp] theorem setIlen_script (v : Half) (s : State) : (setIlen v s).script = s.script := rfl
@[simp] theorem setIlen_pc (v : Half) (s : State) : (setIlen v s).pc = s.pc := rfl
@[simp] theorem setIlen_replies (v : Half) (s : State) : (setIlen v s).replies = s.replies := rfl

/-! ## setWcount -/

@[simp] theorem setWcount_cmd (v : Byte) (s : State) : (setWcount v s).cmd = s.cmd := rfl
@[simp] theorem setWcount_status (v : Byte) (s : State) : (setWcount v s).status = s.status := rfl
@[simp] theorem setWcount_crc (v : Byte) (s : State) : (setWcount v s).crc = s.crc := rfl
@[simp] theorem setWcount_ilen (v : Byte) (s : State) : (setWcount v s).ilen = s.ilen := rfl
@[simp] theorem setWcount_wcount (v : Byte) (s : State) : (setWcount v s).wcount = v := rfl
@[simp] theorem setWcount_olen (v : Byte) (s : State) : (setWcount v s).olen = s.olen := rfl
@[simp] theorem setWcount_rcount (v : Byte) (s : State) : (setWcount v s).rcount = s.rcount := rfl
@[simp] theorem setWcount_mem (v : Byte) (s : State) : (setWcount v s).mem = s.mem := rfl
@[simp] theorem setWcount_faultMark (v : Byte) (s : State) : (setWcount v s).faultMark = s.faultMark := rfl
@[simp] theorem setWcount_refusalMark (v : Byte) (s : State) : (setWcount v s).refusalMark = s.refusalMark := rfl
@[simp] theorem setWcount_cfg (v : Byte) (s : State) : (setWcount v s).cfg = s.cfg := rfl
@[simp] theorem setWcount_script (v : Byte) (s : State) : (setWcount v s).script = s.script := rfl
@[simp] theorem setWcount_pc (v : Byte) (s : State) : (setWcount v s).pc = s.pc := rfl
@[simp] theorem setWcount_replies (v : Byte) (s : State) : (setWcount v s).replies = s.replies := rfl

/-! ## setIbuf -/

@[simp] theorem setIbuf_cmd (i : Nat) (v : Byte) (s : State) : (setIbuf i v s).cmd = s.cmd := rfl
@[simp] theorem setIbuf_status (i : Nat) (v : Byte) (s : State) : (setIbuf i v s).status = s.status := rfl
@[simp] theorem setIbuf_crc (i : Nat) (v : Byte) (s : State) : (setIbuf i v s).crc = s.crc := rfl
@[simp] theorem setIbuf_ilen (i : Nat) (v : Byte) (s : State) : (setIbuf i v s).ilen = s.ilen := rfl
@[simp] theorem setIbuf_wcount (i : Nat) (v : Byte) (s : State) : (setIbuf i v s).wcount = s.wcount := rfl
@[simp] theorem setIbuf_olen (i : Nat) (v : Byte) (s : State) : (setIbuf i v s).olen = s.olen := rfl
@[simp] theorem setIbuf_rcount (i : Nat) (v : Byte) (s : State) : (setIbuf i v s).rcount = s.rcount := rfl
@[simp] theorem setIbuf_mem_ibuf (i : Nat) (v : Byte) (s : State) : (setIbuf i v s).mem.ibuf = writeCell s.mem.ibuf i v := rfl
@[simp] theorem setIbuf_mem_wdata (i : Nat) (v : Byte) (s : State) : (setIbuf i v s).mem.wdata = s.mem.wdata := rfl
@[simp] theorem setIbuf_mem_obuf (i : Nat) (v : Byte) (s : State) : (setIbuf i v s).mem.obuf = s.mem.obuf := rfl
@[simp] theorem setIbuf_mem_rval (i : Nat) (v : Byte) (s : State) : (setIbuf i v s).mem.rval = s.mem.rval := rfl
@[simp] theorem setIbuf_faultMark (i : Nat) (v : Byte) (s : State) : (setIbuf i v s).faultMark = s.faultMark := rfl
@[simp] theorem setIbuf_refusalMark (i : Nat) (v : Byte) (s : State) : (setIbuf i v s).refusalMark = s.refusalMark := rfl
@[simp] theorem setIbuf_cfg (i : Nat) (v : Byte) (s : State) : (setIbuf i v s).cfg = s.cfg := rfl
@[simp] theorem setIbuf_script (i : Nat) (v : Byte) (s : State) : (setIbuf i v s).script = s.script := rfl
@[simp] theorem setIbuf_pc (i : Nat) (v : Byte) (s : State) : (setIbuf i v s).pc = s.pc := rfl
@[simp] theorem setIbuf_replies (i : Nat) (v : Byte) (s : State) : (setIbuf i v s).replies = s.replies := rfl

/-! ## setWdata -/

@[simp] theorem setWdata_cmd (i : Nat) (v : Half) (s : State) : (setWdata i v s).cmd = s.cmd := rfl
@[simp] theorem setWdata_status (i : Nat) (v : Half) (s : State) : (setWdata i v s).status = s.status := rfl
@[simp] theorem setWdata_crc (i : Nat) (v : Half) (s : State) : (setWdata i v s).crc = s.crc := rfl
@[simp] theorem setWdata_ilen (i : Nat) (v : Half) (s : State) : (setWdata i v s).ilen = s.ilen := rfl
@[simp] theorem setWdata_wcount (i : Nat) (v : Half) (s : State) : (setWdata i v s).wcount = s.wcount := rfl
@[simp] theorem setWdata_olen (i : Nat) (v : Half) (s : State) : (setWdata i v s).olen = s.olen := rfl
@[simp] theorem setWdata_rcount (i : Nat) (v : Half) (s : State) : (setWdata i v s).rcount = s.rcount := rfl
@[simp] theorem setWdata_mem_ibuf (i : Nat) (v : Half) (s : State) : (setWdata i v s).mem.ibuf = s.mem.ibuf := rfl
@[simp] theorem setWdata_mem_wdata (i : Nat) (v : Half) (s : State) : (setWdata i v s).mem.wdata = writeCell s.mem.wdata i v := rfl
@[simp] theorem setWdata_mem_obuf (i : Nat) (v : Half) (s : State) : (setWdata i v s).mem.obuf = s.mem.obuf := rfl
@[simp] theorem setWdata_mem_rval (i : Nat) (v : Half) (s : State) : (setWdata i v s).mem.rval = s.mem.rval := rfl
@[simp] theorem setWdata_faultMark (i : Nat) (v : Half) (s : State) : (setWdata i v s).faultMark = s.faultMark := rfl
@[simp] theorem setWdata_refusalMark (i : Nat) (v : Half) (s : State) : (setWdata i v s).refusalMark = s.refusalMark := rfl
@[simp] theorem setWdata_cfg (i : Nat) (v : Half) (s : State) : (setWdata i v s).cfg = s.cfg := rfl
@[simp] theorem setWdata_script (i : Nat) (v : Half) (s : State) : (setWdata i v s).script = s.script := rfl
@[simp] theorem setWdata_pc (i : Nat) (v : Half) (s : State) : (setWdata i v s).pc = s.pc := rfl
@[simp] theorem setWdata_replies (i : Nat) (v : Half) (s : State) : (setWdata i v s).replies = s.replies := rfl

/-! ## storeFrame -/

@[simp] theorem storeFrame_cmd (f : List Byte) (s : State) : (storeFrame f s).cmd = s.cmd := rfl
@[simp] theorem storeFrame_status (f : List Byte) (s : State) : (storeFrame f s).status = s.status := rfl
@[simp] theorem storeFrame_crc (f : List Byte) (s : State) : (storeFrame f s).crc = s.crc := rfl
@[simp] theorem storeFrame_ilen (f : List Byte) (s : State) : (storeFrame f s).ilen = s.ilen := rfl
@[simp] theorem storeFrame_wcount (f : List Byte) (s : State) : (storeFrame f s).wcount = s.wcount := rfl
@[simp] theorem storeFrame_olen (f : List Byte) (s : State) : (storeFrame f s).olen = BitVec.ofNat 16 f.length := rfl
@[simp] theorem storeFrame_rcount (f : List Byte) (s : State) : (storeFrame f s).rcount = s.rcount := rfl
@[simp] theorem storeFrame_mem_ibuf (f : List Byte) (s : State) : (storeFrame f s).mem.ibuf = s.mem.ibuf := rfl
@[simp] theorem storeFrame_mem_wdata (f : List Byte) (s : State) : (storeFrame f s).mem.wdata = s.mem.wdata := rfl
@[simp] theorem storeFrame_mem_obuf (f : List Byte) (s : State) : (storeFrame f s).mem.obuf = invalidateFrom (writeCells s.mem.obuf 0 f) f.length := rfl
@[simp] theorem storeFrame_mem_rval (f : List Byte) (s : State) : (storeFrame f s).mem.rval = s.mem.rval := rfl
@[simp] theorem storeFrame_faultMark (f : List Byte) (s : State) : (storeFrame f s).faultMark = s.faultMark := rfl
@[simp] theorem storeFrame_refusalMark (f : List Byte) (s : State) : (storeFrame f s).refusalMark = s.refusalMark := rfl
@[simp] theorem storeFrame_cfg (f : List Byte) (s : State) : (storeFrame f s).cfg = s.cfg := rfl
@[simp] theorem storeFrame_script (f : List Byte) (s : State) : (storeFrame f s).script = s.script := rfl
@[simp] theorem storeFrame_pc (f : List Byte) (s : State) : (storeFrame f s).pc = s.pc := rfl
@[simp] theorem storeFrame_replies (f : List Byte) (s : State) : (storeFrame f s).replies = s.replies := rfl

/-! ## dropFrame -/

@[simp] theorem dropFrame_cmd (s : State) : (dropFrame s).cmd = s.cmd := rfl
@[simp] theorem dropFrame_status (s : State) : (dropFrame s).status = s.status := rfl
@[simp] theorem dropFrame_crc (s : State) : (dropFrame s).crc = s.crc := rfl
@[simp] theorem dropFrame_ilen (s : State) : (dropFrame s).ilen = s.ilen := rfl
@[simp] theorem dropFrame_wcount (s : State) : (dropFrame s).wcount = s.wcount := rfl
@[simp] theorem dropFrame_olen (s : State) : (dropFrame s).olen = 0 := rfl
@[simp] theorem dropFrame_rcount (s : State) : (dropFrame s).rcount = s.rcount := rfl
@[simp] theorem dropFrame_mem_ibuf (s : State) : (dropFrame s).mem.ibuf = s.mem.ibuf := rfl
@[simp] theorem dropFrame_mem_wdata (s : State) : (dropFrame s).mem.wdata = s.mem.wdata := rfl
@[simp] theorem dropFrame_mem_obuf (s : State) : (dropFrame s).mem.obuf = invalidateFrom s.mem.obuf 0 := rfl
@[simp] theorem dropFrame_mem_rval (s : State) : (dropFrame s).mem.rval = s.mem.rval := rfl
@[simp] theorem dropFrame_faultMark (s : State) : (dropFrame s).faultMark = s.faultMark := rfl
@[simp] theorem dropFrame_refusalMark (s : State) : (dropFrame s).refusalMark = s.refusalMark := rfl
@[simp] theorem dropFrame_cfg (s : State) : (dropFrame s).cfg = s.cfg := rfl
@[simp] theorem dropFrame_script (s : State) : (dropFrame s).script = s.script := rfl
@[simp] theorem dropFrame_pc (s : State) : (dropFrame s).pc = s.pc := rfl
@[simp] theorem dropFrame_replies (s : State) : (dropFrame s).replies = s.replies := rfl

/-! ## storeValues -/

@[simp] theorem storeValues_cmd (vs : List Half) (s : State) : (storeValues vs s).cmd = s.cmd := rfl
@[simp] theorem storeValues_status (vs : List Half) (s : State) : (storeValues vs s).status = s.status := rfl
@[simp] theorem storeValues_crc (vs : List Half) (s : State) : (storeValues vs s).crc = s.crc := rfl
@[simp] theorem storeValues_ilen (vs : List Half) (s : State) : (storeValues vs s).ilen = s.ilen := rfl
@[simp] theorem storeValues_wcount (vs : List Half) (s : State) : (storeValues vs s).wcount = s.wcount := rfl
@[simp] theorem storeValues_olen (vs : List Half) (s : State) : (storeValues vs s).olen = s.olen := rfl
@[simp] theorem storeValues_rcount (vs : List Half) (s : State) : (storeValues vs s).rcount = BitVec.ofNat 16 vs.length := rfl
@[simp] theorem storeValues_mem_ibuf (vs : List Half) (s : State) : (storeValues vs s).mem.ibuf = s.mem.ibuf := rfl
@[simp] theorem storeValues_mem_wdata (vs : List Half) (s : State) : (storeValues vs s).mem.wdata = s.mem.wdata := rfl
@[simp] theorem storeValues_mem_obuf (vs : List Half) (s : State) : (storeValues vs s).mem.obuf = s.mem.obuf := rfl
@[simp] theorem storeValues_mem_rval (vs : List Half) (s : State) : (storeValues vs s).mem.rval = invalidateFrom (writeCells s.mem.rval 0 vs) vs.length := rfl
@[simp] theorem storeValues_faultMark (vs : List Half) (s : State) : (storeValues vs s).faultMark = s.faultMark := rfl
@[simp] theorem storeValues_refusalMark (vs : List Half) (s : State) : (storeValues vs s).refusalMark = s.refusalMark := rfl
@[simp] theorem storeValues_cfg (vs : List Half) (s : State) : (storeValues vs s).cfg = s.cfg := rfl
@[simp] theorem storeValues_script (vs : List Half) (s : State) : (storeValues vs s).script = s.script := rfl
@[simp] theorem storeValues_pc (vs : List Half) (s : State) : (storeValues vs s).pc = s.pc := rfl
@[simp] theorem storeValues_replies (vs : List Half) (s : State) : (storeValues vs s).replies = s.replies := rfl

/-! ## dropValues -/

@[simp] theorem dropValues_cmd (s : State) : (dropValues s).cmd = s.cmd := rfl
@[simp] theorem dropValues_status (s : State) : (dropValues s).status = s.status := rfl
@[simp] theorem dropValues_crc (s : State) : (dropValues s).crc = s.crc := rfl
@[simp] theorem dropValues_ilen (s : State) : (dropValues s).ilen = s.ilen := rfl
@[simp] theorem dropValues_wcount (s : State) : (dropValues s).wcount = s.wcount := rfl
@[simp] theorem dropValues_olen (s : State) : (dropValues s).olen = s.olen := rfl
@[simp] theorem dropValues_rcount (s : State) : (dropValues s).rcount = 0 := rfl
@[simp] theorem dropValues_mem_ibuf (s : State) : (dropValues s).mem.ibuf = s.mem.ibuf := rfl
@[simp] theorem dropValues_mem_wdata (s : State) : (dropValues s).mem.wdata = s.mem.wdata := rfl
@[simp] theorem dropValues_mem_obuf (s : State) : (dropValues s).mem.obuf = s.mem.obuf := rfl
@[simp] theorem dropValues_mem_rval (s : State) : (dropValues s).mem.rval = invalidateFrom s.mem.rval 0 := rfl
@[simp] theorem dropValues_faultMark (s : State) : (dropValues s).faultMark = s.faultMark := rfl
@[simp] theorem dropValues_refusalMark (s : State) : (dropValues s).refusalMark = s.refusalMark := rfl
@[simp] theorem dropValues_cfg (s : State) : (dropValues s).cfg = s.cfg := rfl
@[simp] theorem dropValues_script (s : State) : (dropValues s).script = s.script := rfl
@[simp] theorem dropValues_pc (s : State) : (dropValues s).pc = s.pc := rfl
@[simp] theorem dropValues_replies (s : State) : (dropValues s).replies = s.replies := rfl

/-! ## giveReply -/

@[simp] theorem giveReply_cmd (r : Reply) (s : State) : (giveReply r s).cmd = s.cmd := rfl
@[simp] theorem giveReply_status (r : Reply) (s : State) : (giveReply r s).status = s.status := rfl
@[simp] theorem giveReply_crc (r : Reply) (s : State) : (giveReply r s).crc = s.crc := rfl
@[simp] theorem giveReply_ilen (r : Reply) (s : State) : (giveReply r s).ilen = s.ilen := rfl
@[simp] theorem giveReply_wcount (r : Reply) (s : State) : (giveReply r s).wcount = s.wcount := rfl
@[simp] theorem giveReply_olen (r : Reply) (s : State) : (giveReply r s).olen = s.olen := rfl
@[simp] theorem giveReply_rcount (r : Reply) (s : State) : (giveReply r s).rcount = s.rcount := rfl
@[simp] theorem giveReply_mem (r : Reply) (s : State) : (giveReply r s).mem = s.mem := rfl
@[simp] theorem giveReply_faultMark (r : Reply) (s : State) : (giveReply r s).faultMark = s.faultMark := rfl
@[simp] theorem giveReply_refusalMark (r : Reply) (s : State) : (giveReply r s).refusalMark = s.refusalMark := rfl
@[simp] theorem giveReply_cfg (r : Reply) (s : State) : (giveReply r s).cfg = s.cfg := rfl
@[simp] theorem giveReply_script (r : Reply) (s : State) : (giveReply r s).script = s.script := rfl
@[simp] theorem giveReply_pc (r : Reply) (s : State) : (giveReply r s).pc = s.pc := rfl
@[simp] theorem giveReply_replies (r : Reply) (s : State) : (giveReply r s).replies = r :: s.replies := rfl

/-! ## advancePc -/

@[simp] theorem advancePc_cmd (s : State) : (advancePc s).cmd = s.cmd := rfl
@[simp] theorem advancePc_status (s : State) : (advancePc s).status = s.status := rfl
@[simp] theorem advancePc_crc (s : State) : (advancePc s).crc = s.crc := rfl
@[simp] theorem advancePc_ilen (s : State) : (advancePc s).ilen = s.ilen := rfl
@[simp] theorem advancePc_wcount (s : State) : (advancePc s).wcount = s.wcount := rfl
@[simp] theorem advancePc_olen (s : State) : (advancePc s).olen = s.olen := rfl
@[simp] theorem advancePc_rcount (s : State) : (advancePc s).rcount = s.rcount := rfl
@[simp] theorem advancePc_mem (s : State) : (advancePc s).mem = s.mem := rfl
@[simp] theorem advancePc_faultMark (s : State) : (advancePc s).faultMark = s.faultMark := rfl
@[simp] theorem advancePc_refusalMark (s : State) : (advancePc s).refusalMark = s.refusalMark := rfl
@[simp] theorem advancePc_cfg (s : State) : (advancePc s).cfg = s.cfg := rfl
@[simp] theorem advancePc_script (s : State) : (advancePc s).script = s.script := rfl
@[simp] theorem advancePc_pc (s : State) : (advancePc s).pc = s.pc + 1 := rfl
@[simp] theorem advancePc_replies (s : State) : (advancePc s).replies = s.replies := rfl

/-! ## markFault -/

@[simp] theorem markFault_cmd (f : Fault) (s : State) : (markFault f s).cmd = s.cmd := rfl
@[simp] theorem markFault_status (f : Fault) (s : State) : (markFault f s).status = s.status := rfl
@[simp] theorem markFault_crc (f : Fault) (s : State) : (markFault f s).crc = s.crc := rfl
@[simp] theorem markFault_ilen (f : Fault) (s : State) : (markFault f s).ilen = s.ilen := rfl
@[simp] theorem markFault_wcount (f : Fault) (s : State) : (markFault f s).wcount = s.wcount := rfl
@[simp] theorem markFault_olen (f : Fault) (s : State) : (markFault f s).olen = s.olen := rfl
@[simp] theorem markFault_rcount (f : Fault) (s : State) : (markFault f s).rcount = s.rcount := rfl
@[simp] theorem markFault_mem (f : Fault) (s : State) : (markFault f s).mem = s.mem := rfl
@[simp] theorem markFault_faultMark (f : Fault) (s : State) : (markFault f s).faultMark = s.faultMark.or (some f) := rfl
@[simp] theorem markFault_refusalMark (f : Fault) (s : State) : (markFault f s).refusalMark = s.refusalMark := rfl
@[simp] theorem markFault_cfg (f : Fault) (s : State) : (markFault f s).cfg = s.cfg := rfl
@[simp] theorem markFault_script (f : Fault) (s : State) : (markFault f s).script = s.script := rfl
@[simp] theorem markFault_pc (f : Fault) (s : State) : (markFault f s).pc = s.pc := rfl
@[simp] theorem markFault_replies (f : Fault) (s : State) : (markFault f s).replies = s.replies := rfl

/-! ## markRefusal -/

@[simp] theorem markRefusal_cmd (r : Refusal) (s : State) : (markRefusal r s).cmd = s.cmd := rfl
@[simp] theorem markRefusal_status (r : Refusal) (s : State) : (markRefusal r s).status = s.status := rfl
@[simp] theorem markRefusal_crc (r : Refusal) (s : State) : (markRefusal r s).crc = s.crc := rfl
@[simp] theorem markRefusal_ilen (r : Refusal) (s : State) : (markRefusal r s).ilen = s.ilen := rfl
@[simp] theorem markRefusal_wcount (r : Refusal) (s : State) : (markRefusal r s).wcount = s.wcount := rfl
@[simp] theorem markRefusal_olen (r : Refusal) (s : State) : (markRefusal r s).olen = s.olen := rfl
@[simp] theorem markRefusal_rcount (r : Refusal) (s : State) : (markRefusal r s).rcount = s.rcount := rfl
@[simp] theorem markRefusal_mem (r : Refusal) (s : State) : (markRefusal r s).mem = s.mem := rfl
@[simp] theorem markRefusal_faultMark (r : Refusal) (s : State) : (markRefusal r s).faultMark = s.faultMark := rfl
@[simp] theorem markRefusal_refusalMark (r : Refusal) (s : State) : (markRefusal r s).refusalMark = s.refusalMark.or (some r) := rfl
@[simp] theorem markRefusal_cfg (r : Refusal) (s : State) : (markRefusal r s).cfg = s.cfg := rfl
@[simp] theorem markRefusal_script (r : Refusal) (s : State) : (markRefusal r s).script = s.script := rfl
@[simp] theorem markRefusal_pc (r : Refusal) (s : State) : (markRefusal r s).pc = s.pc := rfl
@[simp] theorem markRefusal_replies (r : Refusal) (s : State) : (markRefusal r s).replies = s.replies := rfl

/-! ## applyReset -/

@[simp] theorem applyReset_cmd (s : State) : (applyReset s).cmd = 0 := rfl
@[simp] theorem applyReset_status (s : State) : (applyReset s).status = 0 := rfl
@[simp] theorem applyReset_crc (s : State) : (applyReset s).crc = 0xFFFF := rfl
@[simp] theorem applyReset_ilen (s : State) : (applyReset s).ilen = 0 := rfl
@[simp] theorem applyReset_wcount (s : State) : (applyReset s).wcount = 0 := rfl
@[simp] theorem applyReset_olen (s : State) : (applyReset s).olen = 0 := rfl
@[simp] theorem applyReset_rcount (s : State) : (applyReset s).rcount = 0 := rfl
@[simp] theorem applyReset_mem (s : State) : (applyReset s).mem = Memory.empty := rfl
@[simp] theorem applyReset_faultMark (s : State) : (applyReset s).faultMark = s.faultMark := rfl
@[simp] theorem applyReset_refusalMark (s : State) : (applyReset s).refusalMark = s.refusalMark := rfl
@[simp] theorem applyReset_cfg (s : State) : (applyReset s).cfg = s.cfg := rfl
@[simp] theorem applyReset_script (s : State) : (applyReset s).script = s.script := rfl
@[simp] theorem applyReset_pc (s : State) : (applyReset s).pc = s.pc := rfl
@[simp] theorem applyReset_replies (s : State) : (applyReset s).replies = s.replies := rfl

end Sys2Proof.Machine
end

