-- ==== Sys2Proof/Laws/Ops.lean ====
section
/-! SUPPORT. What each shared operation can do, said once: the ends of a command, the BUILD and PARSE pipelines, and the
effects any instruction that answers a next state can have. Proofs cite these and do not unfold the operations. -/

namespace Sys2Proof.Machine

/-! ## Ends of a command -/

theorem finish_eq (k : Result) (s : State) : finish k s = setStatus (successStatus k) s := rfl

theorem raise_plain (e : ErrorKind) (s : State) : raise .plain e s = setStatus (errorStatus e) s := rfl

theorem raise_build (e : ErrorKind) (s : State) : raise .build e s = setStatus (errorStatus e) (dropFrame s) := rfl

theorem raise_parse (e : ErrorKind) (s : State) : raise .parse e s = setStatus (errorStatus e) (dropValues s) := rfl

theorem emit_eq (body : List Byte) (s : State) :
    emit body s = setStatus 0x0002 (setCrc (crc16 body) (storeFrame (body ++ crcBytes (crc16 body)) s)) := by
  rw [emit, finish_eq, successStatus_frame]

/-! ## Reads through one element -/

@[simp] theorem read_ibuf (m : Memory) (i : Nat) : m.read .ibuf i = (readCell m.ibuf i).map .bits8 := rfl
@[simp] theorem read_wdata (m : Memory) (i : Nat) : m.read .wdata i = (readCell m.wdata i).map .bits16 := rfl
@[simp] theorem read_obuf (m : Memory) (i : Nat) : m.read .obuf i = (readCell m.obuf i).map .bits8 := rfl
@[simp] theorem read_rval (m : Memory) (i : Nat) : m.read .rval i = (readCell m.rval i).map .bits16 := rfl

theorem wf_iff (m : Memory) :
    m.wf = true ↔ cellsWf m.ibuf = true ∧ cellsWf m.wdata = true ∧ cellsWf m.obuf = true ∧ cellsWf m.rval = true := by
  simp [Memory.wf, and_assoc]

theorem empty_wf : Memory.empty.wf = true := by decide

/-- R34: a store of a frame keeps the canonical form. -/
theorem storeFrame_wf {s : State} (h : s.mem.wf = true) (f : List Byte) : (storeFrame f s).mem.wf = true := by
  rw [wf_iff] at h ⊢
  exact ⟨h.1, h.2.1, cellsWf_invalidateFrom (cellsWf_writeCells h.2.2.1 0 f) _, h.2.2.2⟩

theorem dropFrame_wf {s : State} (h : s.mem.wf = true) : (dropFrame s).mem.wf = true := by
  rw [wf_iff] at h ⊢
  exact ⟨h.1, h.2.1, cellsWf_invalidateFrom h.2.2.1 _, h.2.2.2⟩

theorem storeValues_wf {s : State} (h : s.mem.wf = true) (vs : List Half) : (storeValues vs s).mem.wf = true := by
  rw [wf_iff] at h ⊢
  exact ⟨h.1, h.2.1, h.2.2.1, cellsWf_invalidateFrom (cellsWf_writeCells h.2.2.2 0 vs) _⟩

theorem dropValues_wf {s : State} (h : s.mem.wf = true) : (dropValues s).mem.wf = true := by
  rw [wf_iff] at h ⊢
  exact ⟨h.1, h.2.1, h.2.2.1, cellsWf_invalidateFrom h.2.2.2 _⟩

theorem setIbuf_wf {s : State} (h : s.mem.wf = true) (i : Nat) (v : Byte) : (setIbuf i v s).mem.wf = true := by
  rw [wf_iff] at h ⊢
  exact ⟨cellsWf_writeCell h.1 i v, h.2⟩

theorem setWdata_wf {s : State} (h : s.mem.wf = true) (i : Nat) (v : Half) : (setWdata i v s).mem.wf = true := by
  rw [wf_iff] at h ⊢
  exact ⟨h.1, cellsWf_writeCell h.2.1 i v, h.2.2⟩

/-! ## The pipelines -/

/-- R120: a BUILD that answers a next state failed with InvalidCommand or emitted its frame. -/
theorem buildWith_next {dev fc : Byte} {reg : Half} {payload : Payload} {s t : State}
    (h : buildWith dev fc reg payload s = .next t) :
    ((dev > Config.maxDevice ∨ payload = .invalid) ∧ t = raise .build .invalidCommand s) ∨
      ∃ p, dev ≤ Config.maxDevice ∧ payload = .bytes p ∧ t = emit ([dev, fc] ++ be16 reg ++ p) s := by
  unfold buildWith at h
  split at h
  · cases h
    exact .inl ⟨.inl ‹_›, rfl⟩
  · rename_i hdev
    cases payload with
    | invalid => cases h; exact .inl ⟨.inr rfl, rfl⟩
    | unwritten i => cases h
    | bytes p => cases h; exact .inr ⟨p, by simpa using hdev, rfl, rfl⟩

/-- R128, R129: the payload of a value list, when there is one. -/
theorem listPayload_bytes {count : Option Half} {s : State} {p : List Byte} (h : listPayload count s = .bytes p) :
    1 ≤ s.wcount.toNat ∧ s.wcount.toNat ≤ Config.wdataCap ∧ (∀ c ∈ count, c.toNat = s.wcount.toNat) ∧
      ∃ vals, readCells s.mem.wdata 0 s.wcount.toNat = .ok vals ∧ p = listBytes s.wcount.toNat vals := by
  unfold listPayload at h
  split at h
  · cases h
  · split at h
    · cases h
    · split at h
      · cases h
      · rename_i h0 h1 hc
        split at h
        · cases h
        · rename_i vals hv
          cases h
          refine ⟨by omega, by omega, ?_, vals, hv, rfl⟩
          rintro c rfl
          simpa using hc

/-- R150: a PARSE that answers a next state failed check 1 or 2 with CRC untouched, failed check 3, or reached its decode
step with the CRC of the body in CRC. -/
theorem parseWith_next {fc : Byte} {decodeFrame : List Byte → State → State} {s t : State}
    (h : parseWith fc decodeFrame s = .next t) :
    t = raise .parse .invalidResponse s ∨
      ∃ body, 5 ≤ s.ilen.toNat ∧ readCells s.mem.ibuf 0 (s.ilen.toNat - 2) = .ok body ∧
        (t = raise .parse .crcCheckFailed (setCrc (crc16 body) s) ∨
          t = decodeFrame body (setCrc (crc16 body) s)) := by
  unfold parseWith at h
  split at h
  · cases h; exact .inl rfl
  · split at h
    · cases h
    · split at h
      · unfold checkCrc at h
        split at h
        · cases h
        · rename_i body hb
          refine .inr ⟨body, by omega, hb, ?_⟩
          split at h
          · cases h
          · cases h
          · split at h <;> cases h
            · exact .inr rfl
            · exact .inl rfl
      · cases h; exact .inl rfl

/-! ## What an instruction can do -/

/-- The families of commands, the NOP apart. -/
inductive Kind where
  | nop | crc | build | parse
  deriving DecidableEq, Repr

/-- The family of an instruction. -/
def kindOf : Instr → Kind
  | .nop => .nop
  | .crcInit => .crc
  | .crcUpdate _ => .crc
  | .crcBlock => .crc
  | .buildRd _ _ _ => .build
  | .buildRdDef _ _ => .build
  | .buildWs _ _ _ => .build
  | .buildWm _ _ _ => .build
  | .buildWmImp _ _ => .build
  | .parseRd => .parse
  | .parseWs => .parse
  | .parseWm => .parse

/-- The effects of the rules R103 to R105, R123, R124, R150 to R156 and R181, family by family, seen from the state
before. -/
inductive Effect (s : State) : Kind → State → Prop where
  | nothing : Effect s .nop s
  | crc (c : Half) : Effect s .crc (finish .crc (setCrc c s))
  | frame (dev fc : Byte) (reg : Half) (p : List Byte) (hdev : dev ≤ Config.maxDevice)
      (hfc : fc = 0x03 ∨ fc = 0x06 ∨ fc = 0x10) (hlen : p.length ≤ 257) :
      Effect s .build (emit ([dev, fc] ++ be16 reg ++ p) s)
  | buildFailed : Effect s .build (raise .build .invalidCommand s)
  | badResponse : Effect s .parse (raise .parse .invalidResponse s)
  | badField (body : List Byte) (hbody : readCells s.mem.ibuf 0 (s.ilen.toNat - 2) = .ok body) :
      Effect s .parse (raise .parse .invalidResponse (setCrc (crc16 body) s))
  | badCrc (body : List Byte) (hbody : readCells s.mem.ibuf 0 (s.ilen.toNat - 2) = .ok body) :
      Effect s .parse (raise .parse .crcCheckFailed (setCrc (crc16 body) s))
  | values (body : List Byte) (hbody : readCells s.mem.ibuf 0 (s.ilen.toNat - 2) = .ok body) (vs : List Half)
      (hlen : 2 * vs.length + 5 = s.ilen.toNat) :
      Effect s .parse (finish .values (storeValues vs (setCrc (crc16 body) s)))
  | success (body : List Byte) (hbody : readCells s.mem.ibuf 0 (s.ilen.toNat - 2) = .ok body) :
      Effect s .parse (finish .success (dropValues (setCrc (crc16 body) s)))

theorem listBytes_length (n : Nat) (vals : List Half) : (listBytes n vals).length = 3 + 2 * vals.length := by
  simp [listBytes]; omega

theorem buildWith_effect {dev fc : Byte} {reg : Half} {payload : Payload} {s t : State}
    (hfc : fc = 0x03 ∨ fc = 0x06 ∨ fc = 0x10) (hlen : ∀ p, payload = .bytes p → p.length ≤ 257)
    (h : buildWith dev fc reg payload s = .next t) : Effect s .build t := by
  rcases buildWith_next h with ⟨-, rfl⟩ | ⟨p, hdev, hp, rfl⟩
  · exact .buildFailed
  · exact .frame dev fc reg p hdev hfc (hlen p hp)

theorem listPayload_length {count : Option Half} {s : State} {p : List Byte} (h : listPayload count s = .bytes p) :
    p.length ≤ 257 := by
  obtain ⟨-, h127, -, vals, hv, rfl⟩ := listPayload_bytes h
  have := ((readCells_eq_ok_iff _ _ _ _).mp hv).1
  rw [listBytes_length]
  have : Config.wdataCap = 127 := rfl
  omega

theorem decodeReadResponse_effect {s : State} {body : List Byte} (h5 : 5 ≤ s.ilen.toNat)
    (hb : readCells s.mem.ibuf 0 (s.ilen.toNat - 2) = .ok body) :
    Effect s .parse (decodeReadResponse body (setCrc (crc16 body) s)) := by
  have hl := ((readCells_eq_ok_iff _ _ _ _).mp hb).1
  unfold decodeReadResponse
  split
  · exact .badField _ hb
  · refine .values _ hb _ ?_
    rw [pairValues_length, List.length_drop]
    omega

/-- Everything an instruction that answers a next state can have done. -/
theorem exec_effect {i : Instr} {s t : State} (h : exec i s = .next t) : Effect s (kindOf i) t := by
  cases i with
  | nop => cases h; exact .nothing
  | crcInit => cases h; exact .crc _
  | crcUpdate b => cases h; exact .crc _
  | crcBlock =>
    simp only [exec, execCrcBlock] at h
    split at h
    · cases h
    · cases h; exact .crc _
  | buildRd dev reg count =>
    refine buildWith_effect (.inl rfl) (fun p hp => ?_) h
    unfold readPayload at hp
    split at hp
    · cases hp
    · cases hp; simp
  | buildRdDef dev reg =>
    have h : buildWith dev 0x03 reg (.bytes (be16 0x0001)) s = .next t := h
    exact buildWith_effect (.inl rfl) (fun p hp => by cases hp; simp) h
  | buildWs dev reg value =>
    have h : buildWith dev 0x06 reg (.bytes (be16 value)) s = .next t := h
    exact buildWith_effect (.inr (.inl rfl)) (fun p hp => by cases hp; simp) h
  | buildWm dev reg count => exact buildWith_effect (.inr (.inr rfl)) (fun p hp => listPayload_length hp) h
  | buildWmImp dev reg => exact buildWith_effect (.inr (.inr rfl)) (fun p hp => listPayload_length hp) h
  | parseRd =>
    rcases parseWith_next h with rfl | ⟨body, h5, hb, rfl | rfl⟩
    · exact .badResponse
    · exact .badCrc _ hb
    · exact decodeReadResponse_effect h5 hb
  | parseWs =>
    rcases parseWith_next h with rfl | ⟨body, -, hb, rfl | rfl⟩
    · exact .badResponse
    · exact .badCrc _ hb
    · exact .success _ hb
  | parseWm =>
    rcases parseWith_next h with rfl | ⟨body, -, hb, rfl | rfl⟩
    · exact .badResponse
    · exact .badCrc _ hb
    · exact .success _ hb

end Sys2Proof.Machine
end

