-- ==== Sys2Proof/Laws/PerInstr.lean ====
section
/-! SUPPORT. Statements about every instruction as syntax, one lemma per constructor. -/

namespace Sys2Proof.Laws.EncodedOpcode

/-- R72: the opcode of each command. -/
def opcodeOf : Instr → Byte
  | .nop => 0x00
  | .crcInit => 0x01
  | .crcUpdate _ => 0x02
  | .crcBlock => 0x03
  | .buildRd _ _ _ => 0x10
  | .buildRdDef _ _ => 0x10
  | .buildWs _ _ _ => 0x10
  | .buildWm _ _ _ => 0x10
  | .buildWmImp _ _ => 0x10
  | .parseRd => 0x20
  | .parseWs => 0x20
  | .parseWm => 0x20

/-- R72: the encoded word has the command's opcode in OP. -/
def Statement (i : Instr) : Prop := opField (encode i) = opcodeOf i

theorem opField_encodeB (fc dev : Byte) (cp : Bool) (reg arg : Half) : opField (encodeB fc dev cp reg arg) = 0x10 := by
  apply BitVec.eq_of_getLsbD_eq
  intro i hi
  have h : i < 64 := by omega
  simp only [opField, encodeB, BitVec.getLsbD_extractLsb', BitVec.getLsbD_or, BitVec.getLsbD_shiftLeft, hi, Nat.zero_add,
    show i < 16 by omega, show i < 24 by omega, show i < 32 by omega, show i < 48 by omega]
  rcases i with _ | _ | _ | _ | _ | _ | _ | _ | i <;> first | rfl | omega

theorem opField_encodeByte (op b : Byte) : opField (encodeByte op b) = op := by
  apply BitVec.eq_of_getLsbD_eq
  intro i hi
  simp [opField, encodeByte, hi, show i < 64 by omega]

theorem nop : Statement .nop := rfl
theorem crcInit : Statement .crcInit := rfl
theorem crcUpdate (b : Byte) : Statement (.crcUpdate b) := opField_encodeByte 0x02 b
theorem crcBlock : Statement .crcBlock := rfl
theorem buildRd (dev : Byte) (reg count : Half) : Statement (.buildRd dev reg count) := opField_encodeB _ _ _ _ _
theorem buildRdDef (dev : Byte) (reg : Half) : Statement (.buildRdDef dev reg) := opField_encodeB _ _ _ _ _
theorem buildWs (dev : Byte) (reg value : Half) : Statement (.buildWs dev reg value) := opField_encodeB _ _ _ _ _
theorem buildWm (dev : Byte) (reg count : Half) : Statement (.buildWm dev reg count) := opField_encodeB _ _ _ _ _
theorem buildWmImp (dev : Byte) (reg : Half) : Statement (.buildWmImp dev reg) := opField_encodeB _ _ _ _ _
theorem parseRd : Statement .parseRd := opField_encodeByte 0x20 0x03
theorem parseWs : Statement .parseWs := opField_encodeByte 0x20 0x06
theorem parseWm : Statement .parseWm := opField_encodeByte 0x20 0x10

end Sys2Proof.Laws.EncodedOpcode
end

