-- ==== Sys2Proof/Laws/Step.lean ====
section
/-! SUPPORT. What a step can do, said once (`step_next`, `act_next`, `command_next`), that the host's next action is the
one that was placed, and the buffers that the stores leave filled exactly. -/

namespace Sys2Proof.Machine

/-- A command word that answers a next state had the effect of an instruction, or was rejected (R180). -/
theorem command_next {w : Word} {s t : State} (h : command w s = .next t) :
    (∃ i, decode w = .ok i ∧ exec i (latchCmd w s) = .next t) ∨
      (∃ r, decode w = .error r ∧ t = raise (rejectFamily r) .invalidCommand (latchCmd w s)) := by
  unfold command at h
  split at h
  · exact .inl ⟨_, ‹_›, h⟩
  · cases h; exact .inr ⟨_, ‹_›, rfl⟩

/-- A word that decodes runs its instruction with CMD written (R180). -/
theorem command_of_ok {w : Word} {i : Instr} (h : decode w = .ok i) (s : State) :
    command w s = exec i (latchCmd w s) := by rw [command, h]

/-- A rejected word completes with InvalidCommand (R180). -/
theorem command_of_error {w : Word} {r : Reject} (h : decode w = .error r) (s : State) :
    command w s = .next (raise (rejectFamily r) .invalidCommand (latchCmd w s)) := by rw [command, h]

/-- Everything an action that answers a next state can have done: a command, a write of ILEN, WCOUNT, IBUF or WDATA, a
read, or a reset. -/
theorem act_next {e : Event} {s t : State} (h : act e s = .next t) :
    (∃ w : Word, e = .access (.writeReg .cmd w.toNat) ∧ command w s = .next t) ∨
      (∃ v, v < 2 ^ 16 ∧ v ≤ s.cfg.ibufCap ∧ e = .access (.writeReg .ilen v) ∧ t = setIlen (BitVec.ofNat 16 v) s) ∨
      (∃ v, v < 2 ^ 8 ∧ e = .access (.writeReg .wcount v) ∧ t = setWcount (BitVec.ofNat 8 v) s) ∨
      (∃ i v, i < s.cfg.ibufCap ∧ v < 2 ^ 8 ∧ e = .access (.writeBuf .ibuf i v) ∧ t = setIbuf i (BitVec.ofNat 8 v) s) ∨
      (∃ i v, i < Config.wdataCap ∧ v < 2 ^ 16 ∧ e = .access (.writeBuf .wdata i v) ∧
        t = setWdata i (BitVec.ofNat 16 v) s) ∨
      (∃ a r, e = .access a ∧ t = giveReply r s) ∨
      (e = .reset ∧ t = applyReset s) := by
  cases e with
  | reset => cases h; simp
  | secondAgent a => cases h
  | access a =>
    cases a with
    | writeReg r v =>
      cases r <;> simp only [act, access, hostWriteReg] at h <;> try cases h
      · split at h
        · rename_i hv
          exact .inl ⟨BitVec.ofNat 64 v, by rw [BitVec.toNat_ofNat, Nat.mod_eq_of_lt hv], h⟩
        · cases h
      · split at h
        · rename_i hv
          cases h
          exact .inr (.inl ⟨v, hv.1, hv.2, rfl, rfl⟩)
        · cases h
      · split at h
        · rename_i hv
          cases h
          exact .inr (.inr (.inl ⟨v, hv, rfl, rfl⟩))
        · cases h
    | readReg r => cases h; exact .inr (.inr (.inr (.inr (.inr (.inl ⟨_, _, rfl, rfl⟩)))))
    | writeBuf b i v =>
      cases b <;> simp only [act, access, hostWriteBuf] at h <;> try cases h
      · split at h
        · rename_i hv
          cases h
          exact .inr (.inr (.inr (.inl ⟨i, v, hv.1, hv.2, rfl, rfl⟩)))
        · cases h
      · split at h
        · rename_i hv
          cases h
          exact .inr (.inr (.inr (.inr (.inl ⟨i, v, hv.1, hv.2, rfl, rfl⟩))))
        · cases h
    | readBuf b i =>
      simp only [act, access, hostReadBuf] at h
      split at h
      · split at h
        · cases h; exact .inr (.inr (.inr (.inr (.inr (.inl ⟨_, _, rfl, rfl⟩)))))
        · cases h
      · cases h

/-- A step is idle or takes the action at the index (R22, R213). -/
theorem step_next {s t : State} (h : step s = .next t) :
    (s.script[s.pc]? = none ∧ t = s) ∨ (∃ e, s.script[s.pc]? = some e ∧ act e (advancePc s) = .next t) := by
  unfold step at h
  split at h
  · cases h; exact .inl ⟨‹_›, rfl⟩
  · exact .inr ⟨_, ‹_›, h⟩

/-- The placed action is the one at the index. -/
@[simp] theorem getElem?_placeEvent (es : List Event) (n : Nat) (e : Event) : (placeEvent es n e)[n]? = some e := by
  induction n generalizing es with
  | zero => cases es <;> simp [placeEvent]
  | succ n ih => cases es <;> simp [placeEvent, ih]

/-- Placing an action leaves every other action of the sequence alone. -/
theorem getElem?_placeEvent_other {es : List Event} {n k : Nat} (e : Event) (hk : k < es.length) (hkn : k ≠ n) :
    (placeEvent es n e)[k]? = es[k]? := by
  induction n generalizing es k with
  | zero =>
    cases es with
    | nil => simp at hk
    | cons x es =>
      cases k with
      | zero => exact absurd rfl hkn
      | succ k => simp [placeEvent]
  | succ n ih =>
    cases es with
    | nil => simp at hk
    | cons x es =>
      cases k with
      | zero => simp [placeEvent]
      | succ k => simpa [placeEvent] using ih (by simpa using hk) (by omega)

/-- R34: after a frame is stored OBUF holds exactly its bytes. -/
theorem storeFrame_filled (f : List Byte) (s : State) : FilledExactly (storeFrame f s).mem .obuf f.length := by
  intro i
  simp

theorem dropFrame_filled (s : State) : FilledExactly (dropFrame s).mem .obuf 0 := by
  intro i
  simp

/-- R35: after values are stored RVAL holds exactly them. -/
theorem storeValues_filled (vs : List Half) (s : State) : FilledExactly (storeValues vs s).mem .rval vs.length := by
  intro i
  simp

theorem dropValues_filled (s : State) : FilledExactly (dropValues s).mem .rval 0 := by
  intro i
  simp

end Sys2Proof.Machine
end

