-- ==== Sys2Proof/Tests/Slice0.lean ====
section
/-! SUPPORT. The model's own tests: the checks of WellFormed, decoding of written-out words, one or two vectors of
spec/95_test_vectors.md for each command, and for each statement with hypotheses a witness that meets them. -/

namespace Sys2Proof.Tests

/- One test after another: checked all at once they would each hold a thread. -/
set_option Elab.async false

open Sys2Proof Sys2Proof.Machine

/-! ## Small states -/

/-- The state after an outcome, if there is one. -/
def nextOf (o : Host.Outcome State Fault Refusal) : Option State :=
  match o with
  | .next t => some t
  | .fault _ => none
  | .refused _ => none

/-- The fault of an outcome, if it is one. -/
def faultOf (o : Host.Outcome State Fault Refusal) : Option Fault :=
  match o with
  | .next _ => none
  | .fault f => some f
  | .refused _ => none

/-- Whether an outcome is the refusal `r`. -/
def refusedAs (r : Refusal) (o : Host.Outcome State Fault Refusal) : Bool :=
  match o with
  | .next _ => false
  | .fault _ => false
  | .refused r' => decide (r' = r)

/-- Reset, then `LOADI bytes`. -/
def withInput (bytes : List Byte) : State :=
  { State.reset with
    ilen := BitVec.ofNat 16 bytes.length, mem := { Memory.empty with ibuf := writeCells [] 0 bytes } }

/-- Reset, then `LOADW values`. -/
def withValues (values : List Half) : State :=
  { State.reset with
    wcount := BitVec.ofNat 8 values.length, mem := { Memory.empty with wdata := writeCells [] 0 values } }

/-- Reset, with `word` as the host's next command. -/
def withCommand (word : Nat) : State := State.reset.withFetchWord 64 word

/-- What a vector of section 2.2 lists. -/
def frameResult (o : Host.Outcome State Fault Refusal) : Option (Half × Half × Half × List Byte) :=
  (nextOf o).map (fun t => (t.status, t.olen, t.crc, t.mem.obuf.map (fun cell => cell.2)))

/-- What a vector of section 2.3 lists. -/
def valueResult (o : Host.Outcome State Fault Refusal) : Option (Half × Half × Half × List Half) :=
  (nextOf o).map (fun t => (t.status, t.rcount, t.crc, t.mem.rval.map (fun cell => cell.2)))

/-- What a vector of section 2.1 lists. -/
def crcResult (o : Host.Outcome State Fault Refusal) : Option (Half × Half) :=
  (nextOf o).map (fun t => (t.status, t.crc))

/-! ## WellFormed refuses an ill-formed term for each of its checks -/

theorem test_wellFormed_device_buildRd : (Instr.buildRd 248 0x0207 1).wellFormed = false := by decide
theorem test_wellFormed_device_buildRdDef : (Instr.buildRdDef 255 0x0207).wellFormed = false := by decide
theorem test_wellFormed_device_buildWs : (Instr.buildWs 248 0x0300 1).wellFormed = false := by decide
theorem test_wellFormed_device_buildWm : (Instr.buildWm 248 0x0101 2).wellFormed = false := by decide
theorem test_wellFormed_device_buildWmImp : (Instr.buildWmImp 250 0x0101).wellFormed = false := by decide
theorem test_wellFormed_readCount : (Instr.buildRd 1 0x0207 0).wellFormed = false := by decide
theorem test_wellFormed_writeCount_zero : (Instr.buildWm 1 0x0101 0).wellFormed = false := by decide
theorem test_wellFormed_writeCount_large : (Instr.buildWm 1 0x0101 128).wellFormed = false := by decide
theorem test_wellFormed_accepts : (Instr.buildWm 247 0x0101 127).wellFormed = true := by decide

/-! ## Decoding: words written out from the fields of R71 and the opcodes of R72 to R74 -/

theorem test_decode_nop : decode 0x0000000000000000 = .ok .nop := by decide
theorem test_decode_crcInit : decode 0x0000000000000001 = .ok .crcInit := by decide
theorem test_decode_crcUpdate : decode 0x000000000000FF02 = .ok (.crcUpdate 0xFF) := by decide
theorem test_decode_crcBlock : decode 0x0000000000000003 = .ok .crcBlock := by decide
theorem test_decode_buildRd : decode 0x0006020701010310 = .ok (.buildRd 0x01 0x0207 6) := by decide
theorem test_decode_buildRdDef : decode 0x0000000000010310 = .ok (.buildRdDef 0x01 0x0000) := by decide
theorem test_decode_buildWs : decode 0x0001030000010610 = .ok (.buildWs 0x01 0x0300 1) := by decide
theorem test_decode_buildWm : decode 0x0002010101011010 = .ok (.buildWm 0x01 0x0101 2) := by decide
theorem test_decode_buildWmImp : decode 0x0000010700011010 = .ok (.buildWmImp 0x01 0x0107) := by decide
theorem test_decode_parseRd : decode 0x0000000000000320 = .ok .parseRd := by decide
theorem test_decode_parseWs : decode 0x0000000000000620 = .ok .parseWs := by decide
theorem test_decode_parseWm : decode 0x0000000000001020 = .ok .parseWm := by decide

/-- V-CTL-03, V-BLD-29, V-BLD-09, V-PRS-24: words that are no command. -/
theorem test_decode_rejects :
    decode 0x04 = .error (.reservedOp 0x04) ∧
    decode 0x0001020701010410 = .error (.functionCode .build 0x04) ∧
    decode 0x0001000000010310 = .error (.reservedBits .build 0x0001000000000000) ∧
    decode 0x10620 = .error (.reservedBits .parse 0x10000) := by decide

/-! ## Vectors of spec/95_test_vectors.md -/

/-- V-CTL-01, V-CTL-06. -/
theorem test_nop : crcResult (command 0 State.reset) = some (0x0000, 0xFFFF) := by decide +kernel

/-- V-CTL-02. -/
theorem test_nop_reserved_bit : crcResult (command 0x100 State.reset) = some (0x0107, 0xFFFF) := by decide +kernel

/-- V-CRC-15. -/
theorem test_crcInit : crcResult (exec .crcInit { State.reset with crc := 0x807E }) = some (0x0001, 0xFFFF) := by
  decide +kernel

/-- V-CRC-01. -/
theorem test_crcUpdate_zero : crcResult (exec (.crcUpdate 0x00) State.reset) = some (0x0001, 0x40BF) := by
  decide +kernel

/-- V-CRC-17: the stream goes on from the accumulator. -/
theorem test_crcUpdate_stream :
    crcResult (exec (.crcUpdate 0x06) { State.reset with crc := 0x807E }) = some (0x0001, 0x2280) := by decide +kernel

/-- V-CRC-04: the check value over "123456789". -/
theorem test_crcBlock_check_value :
    crcResult (exec .crcBlock (withInput [0x31, 0x32, 0x33, 0x34, 0x35, 0x36, 0x37, 0x38, 0x39])) =
      some (0x0001, 0x4B37) := by
  decide +kernel

/-- V-CRC-12. -/
theorem test_crcBlock_fault :
    faultOf (exec .crcBlock { withInput [0x01, 0x03] with ilen := 3 }) = some (.unwrittenRead .ibuf 2) := by
      decide +kernel

/-- V-BLD-01. -/
theorem test_buildRd : frameResult (command 0x0001020701010310 State.reset) =
    some (0x0002, 8, 0x7334, [0x01, 0x03, 0x02, 0x07, 0x00, 0x01, 0x34, 0x73]) := by decide +kernel

/-- V-BLD-07. -/
theorem test_buildRd_device : frameResult (command 0x0001020701FF0310 State.reset) =
  some (0x0107, 0, 0xFFFF, []) := by decide +kernel

/-- V-BLD-08. -/
theorem test_buildRdDef : frameResult (command 0x0000000000010310 State.reset) =
    some (0x0002, 8, 0x0A84, [0x01, 0x03, 0x00, 0x00, 0x00, 0x01, 0x84, 0x0A]) := by decide +kernel

/-- V-BLD-11: the source's worked example. -/
theorem test_buildWs : frameResult (command 0x0001030000010610 State.reset) =
    some (0x0002, 8, 0x4E48, [0x01, 0x06, 0x03, 0x00, 0x00, 0x01, 0x48, 0x4E]) := by decide +kernel

/-- V-BLD-16. -/
theorem test_buildWs_cp_reserved : frameResult (command 0x0001030001010610 State.reset) =
  some (0x0107, 0, 0xFFFF, []) := by
  decide +kernel

/-- V-BLD-17. -/
theorem test_buildWm : frameResult (command 0x0002010101011010 (withValues [100, 200])) =
    some (0x0002, 13, 0xBA7F, [0x01, 0x10, 0x01, 0x01, 0x00, 0x02, 0x04, 0x00, 0x64, 0x00, 0xC8, 0x7F,
      0xBA]) := by decide +kernel

/-- V-BLD-27 and V-BLD-28: the count check comes before WDATA is read. -/
theorem test_buildWm_fault_after_checks :
    faultOf (exec (.buildWm 0x01 0x0101 2) { withValues [7] with wcount := 2 }) = some (.unwrittenRead .wdata 1) ∧
    frameResult (exec (.buildWm 0x01 0x0101 3) { withValues [7] with wcount := 2 }) =
      some (0x0107, 0, 0xFFFF, []) := by decide +kernel

/-- V-BLD-19. -/
theorem test_buildWmImp : frameResult (command 0x0000010700011010 (withValues [5])) =
    some (0x0002, 11, 0x2477, [0x01, 0x10, 0x01, 0x07, 0x00, 0x01, 0x02, 0x00, 0x05, 0x77, 0x24]) := by decide +kernel

/-- V-BLD-23. -/
theorem test_buildWmImp_empty : frameResult (command 0x0000000000011010 State.reset) =
  some (0x0107, 0, 0xFFFF, []) := by decide +kernel

/-- V-PRS-04: the values are unsigned and big-endian. -/
theorem test_parseRd : valueResult (exec .parseRd
    (withInput [0x01, 0x03, 0x06, 0xFF, 0xFF, 0x00, 0x00, 0x80, 0x01, 0x81, 0x6E])) =
    some (0x0004, 3, 0x6E81, [0xFFFF, 0x0000, 0x8001]) := by decide +kernel

/-- V-PRS-06 and V-PRS-07: the odd field is checked after the CRC. -/
theorem test_parseRd_odd :
    valueResult (exec .parseRd (withInput [0x01, 0x03, 0x03, 0x00, 0x01, 0x02, 0xC5, 0xDF])) =
      some (0x0207, 0, 0xDFC5, []) ∧
    valueResult (exec .parseRd (withInput [0x01, 0x03, 0x03, 0x00, 0x01, 0x02, 0xC5, 0xDE])) =
      some (0x0307, 0, 0xDFC5, []) := by
  decide +kernel

/-- V-PRS-18: the address is not checked. -/
theorem test_parseWs : valueResult (exec .parseWs (withInput [0x05, 0x06, 0x03, 0x00, 0x00, 0x01, 0x49, 0xCA])) =
    some (0x0003, 0, 0xCA49, []) := by decide +kernel

/-- V-PRS-25, V-PRS-26 and V-PRS-27: length, then IBUF[1], then the bytes of the CRC. -/
theorem test_parseWs_order :
    faultOf (exec .parseWs { withInput [0x01, 0x06] with ilen := 8 }) = some (.unwrittenRead .ibuf 2) ∧
    faultOf (exec .parseWs { withInput [0x01] with ilen := 8 }) = some (.unwrittenRead .ibuf 1) ∧
    valueResult (exec .parseWs { withInput [0x01] with ilen := 4 }) = some (0x0207, 0, 0xFFFF, []) := by
      decide +kernel

/-- V-PRS-20. -/
theorem test_parseWm : valueResult (exec .parseWm (withInput [0x01, 0x10, 0x01, 0x01, 0x00, 0x02, 0x11, 0xF4])) =
    some (0x0003, 0, 0xF411, []) := by decide +kernel

/-- V-PRS-22. -/
theorem test_parseWm_echo : valueResult (exec .parseWm (withInput [0x01, 0x06, 0x03, 0x00, 0x00, 0x01, 0x48, 0x4E])) =
    some (0x0207, 0, 0xFFFF, []) := by decide +kernel

/-- V-MEM-01, V-MEM-03, V-MEM-05, V-MEM-07, V-MEM-08 and V-MEM-16. -/
theorem test_host_violations :
    refusedAs .hostViolation (access (.writeReg .status 0) State.reset) = true ∧
    refusedAs .hostViolation (access (.writeReg .ilen 257) State.reset) = true ∧
    refusedAs .hostViolation (access (.writeBuf .ibuf 0 0x100) State.reset) = true ∧
    refusedAs .hostViolation (access (.writeBuf .wdata 127 1) State.reset) = true ∧
    refusedAs .hostViolation (access (.writeBuf .obuf 0 1) State.reset) = true ∧
    refusedAs .hostViolation (access (.writeReg .wcount 256) State.reset) = true := by decide +kernel

/-- V-MEM-10 and V-MEM-11. -/
theorem test_read_frame :
    ((nextOf (command 0x0001020701010310 State.reset)).bind (fun t => nextOf (access (.readBuf .obuf 7) t))).map
      (fun t => t.replies) = some [.bits8 0x73] ∧
    ((nextOf (command 0x0001020701010310 State.reset)).bind (fun t => faultOf (access (.readBuf .obuf 8) t))) =
      some (.unwrittenRead .obuf 8) := by decide +kernel

/-- V-RST-03: the fault mark stays set over a reset. -/
theorem test_reset_keeps_fault_mark :
    (record .reset (record (asmWord 0x0002010101011010) { withValues [7] with wcount := 2 })).faultMark =
      some (.unwrittenRead .wdata 1) := by decide +kernel

/-- A word placed as the next action runs at the first step after reset. -/
theorem test_step_after_reset : frameResult (step (withCommand 0x0001030000010610)) =
    some (0x0002, 8, 0x4E48, [0x01, 0x06, 0x03, 0x00, 0x00, 0x01, 0x48, 0x4E]) := by decide +kernel

/-! ## Witnesses: for each statement with hypotheses, states and operands that meet them all, at the edges of their
ranges -/

/-- An outcome that is a next state with the property `p`. -/
theorem exists_next {o : Host.Outcome State Fault Refusal} {p : State → Prop} [DecidablePred p]
    (h : (nextOf o).any (fun t => decide (p t)) = true) : ∃ t, o = .next t ∧ p t := by
  cases o <;> simp_all [nextOf]

theorem faultOf_eq {o : Host.Outcome State Fault Refusal} {f : Fault} (h : faultOf o = some f) : o = .fault f := by
  cases o <;> simp_all [faultOf]

theorem refusedAs_eq {o : Host.Outcome State Fault Refusal} {r : Refusal} (h : refusedAs r o = true) : o = .refused r := by
  cases o <;> simp_all [refusedAs]

theorem witness_EncodeOfADecodedWordIsTheWord : decode 0xFFFFFFFF01FF0310 = .ok (.buildRd 0xFF 0xFFFF 0xFFFF) := by decide

theorem witness_ReservedBitsCompleteWithInvalidCommand :
    (([0x100, 0x8000000000000001, 0x103] : List Word).all (fun w =>
      decide ((w.extractLsb 7 0 = 0x00 ∨ w.extractLsb 7 0 = 0x01 ∨ w.extractLsb 7 0 = 0x03) ∧
        w &&& 0xFFFFFFFFFFFFFF00 ≠ 0)) = true) ∧
    (([0x10002, 0x800000000000FF02] : List Word).all (fun w => decide (w.extractLsb 7 0 = 0x02 ∧
      w &&& 0xFFFFFFFFFFFF0000 ≠ 0)) = true) ∧
    (([0x0001000003010310, 0x0001000081011010] : List Word).all (fun w => decide (w.extractLsb 7 0 = 0x10 ∧
      (w.extractLsb 15 8 = 0x03 ∨ w.extractLsb 15 8 = 0x10) ∧ w.getLsbD 24 = true ∧
        w &&& 0x00000000FE000000 ≠ 0)) = true) ∧
    (([0x0001000000010310, 0x0000000002011010] : List Word).all (fun w => decide (w.extractLsb 7 0 = 0x10 ∧
      (w.extractLsb 15 8 = 0x03 ∨ w.extractLsb 15 8 = 0x10) ∧ w.getLsbD 24 = false ∧
        w &&& 0xFFFF0000FE000000 ≠ 0)) = true) ∧
    (([0x01010610, 0x80010610] : List Word).all (fun w => decide (w.extractLsb 7 0 = 0x10 ∧
      w.extractLsb 15 8 = 0x06 ∧ w &&& 0x00000000FF000000 ≠ 0)) = true) ∧
    (([0x10320, 0x10620, 0x8000000000001020] : List Word).all (fun w => decide (w.extractLsb 7 0 = 0x20 ∧
      (w.extractLsb 15 8 = 0x03 ∨ w.extractLsb 15 8 = 0x06 ∨ w.extractLsb 15 8 = 0x10) ∧
      w &&& 0xFFFFFFFFFFFF0000 ≠ 0)) = true) := by decide +kernel

theorem witness_ReservedOpcodeIsInvalidCommand : ([0x04, 0x0F, 0x11, 0x1F, 0x21, 0xFF] : List Word).all (fun w =>
  decide (w.extractLsb 7 0 ≠ 0x00 ∧ w.extractLsb 7 0 ≠ 0x01 ∧ w.extractLsb 7 0 ≠ 0x02 ∧ w.extractLsb 7 0 ≠ 0x03 ∧
    w.extractLsb 7 0 ≠ 0x10 ∧ w.extractLsb 7 0 ≠ 0x20)) = true := by decide +kernel

theorem witness_BuildOfAnotherFunctionCodeIsInvalidCommand :
    ([0x0010, 0x0410, 0x1110, 0xFF10] : List Word).all (fun w => decide (w.extractLsb 7 0 = 0x10 ∧
      w.extractLsb 15 8 ≠ 0x03 ∧
    w.extractLsb 15 8 ≠ 0x06 ∧ w.extractLsb 15 8 ≠ 0x10)) = true := by
  decide +kernel

theorem witness_ParseOfAnotherFunctionCodeIsInvalidCommand :
    ([0x0020, 0x0420, 0x1120, 0xFF20] : List Word).all (fun w => decide (w.extractLsb 7 0 = 0x20 ∧
      w.extractLsb 15 8 ≠ 0x03 ∧
    w.extractLsb 15 8 ≠ 0x06 ∧ w.extractLsb 15 8 ≠ 0x10)) = true := by
  decide +kernel

theorem witness_IllFormedInstructionsRaiseInvalidCommand : (Instr.buildWm 247 0x0101 128).wellFormed = false := by
  decide

theorem witness_StepRunsTheDecodedInstruction :
    (withCommand 3).script[(withCommand 3).pc]? = some (.access (.writeReg .cmd (3 : Word).toNat)) ∧
    decode 3 = .ok .crcBlock := by decide +kernel

theorem witness_PlacedWordRunsAtTheNextStep :
    0xFFFF030000F70610 < 2 ^ 64 ∧ decodeTableWord 64 0xFFFF030000F70610 = some (.buildWs 247 0x0300 0xFFFF) := by
  decide +kernel

theorem witness_EachStepTakesTheNextHostAction :
    (withCommand 1).script[(withCommand 1).pc]? ≠ none ∧ (∃ t, step (withCommand 1) = .next t ∧ t.crc = 0xFFFF) ∧
    State.reset.script[State.reset.pc]? = none ∧ (∃ t, exec .crcInit State.reset = .next t ∧ t.status = 1) :=
  ⟨by decide +kernel, exists_next (by decide +kernel), by decide, exists_next (by decide +kernel)⟩

/-- The selected words of each form, without and with a reserved bit: the hypotheses of every `WordsRun`. -/
theorem witness_WordsRun :
    (([(0x000, 0x100, 0x00), (0x001, 0x101, 0x01), (0x003, 0x8000000000000003, 0x03)] :
        List (Word × Word × Byte)).all (fun p => decide (p.1.extractLsb 7 0 = p.2.2 ∧
        p.1.extractLsb 63 8 = 0 ∧ p.2.1.extractLsb 7 0 = p.2.2 ∧ p.2.1.extractLsb 63 8 ≠ 0)) = true) ∧
    ((0xFF02 : Word).extractLsb 7 0 = 0x02 ∧ (0xFF02 : Word).extractLsb 63 16 = 0 ∧
      (0x10002 : Word).extractLsb 7 0 = 0x02 ∧ (0x10002 : Word).extractLsb 63 16 ≠ 0) ∧
    (([(0x0001020701010310, 0x0001020703010310, 0x03), (0x0002010101011010, 0x0002010181011010, 0x10)] :
        List (Word × Word × Byte)).all (fun p => decide (p.1.extractLsb 7 0 = 0x10 ∧ p.1.extractLsb 15 8 = p.2.2 ∧
          p.1.getLsbD 24 = true ∧ p.1.extractLsb 31 25 = 0 ∧
      p.2.1.extractLsb 7 0 = 0x10 ∧ p.2.1.extractLsb 15 8 = p.2.2 ∧ p.2.1.getLsbD 24 = true ∧
      p.2.1.extractLsb 31 25 ≠ 0)) = true) ∧
    (([(0x0000020700010310, 0x0001020700010310, 0x03), (0x0000010700011010, 0x0000010702011010, 0x10)] :
        List (Word × Word × Byte)).all (fun p => decide (p.1.extractLsb 7 0 = 0x10 ∧ p.1.extractLsb 15 8 = p.2.2 ∧
          p.1.getLsbD 24 = false ∧ p.1.extractLsb 63 48 = 0 ∧
      p.1.extractLsb 31 25 = 0 ∧ p.2.1.extractLsb 7 0 = 0x10 ∧ p.2.1.extractLsb 15 8 = p.2.2 ∧
      p.2.1.getLsbD 24 = false ∧ (p.2.1.extractLsb 63 48 ≠ 0 ∨ p.2.1.extractLsb 31 25 ≠ 0))) = true) ∧
    ((0xFFFF030000010610 : Word).extractLsb 7 0 = 0x10 ∧ (0xFFFF030000010610 : Word).extractLsb 15 8 = 0x06 ∧
      (0xFFFF030000010610 : Word).extractLsb 31 24 = 0 ∧ (0x0001030001010610 : Word).extractLsb 31 24 ≠ 0) ∧
    (([(0x0320, 0x10320, 0x03), (0x0620, 0x10620, 0x06), (0x1020, 0x8000000000001020, 0x10)] :
        List (Word × Word × Byte)).all (fun p => decide (p.1.extractLsb 7 0 = 0x20 ∧ p.1.extractLsb 15 8 = p.2.2 ∧
          p.1.extractLsb 63 16 = 0 ∧
      p.2.1.extractLsb 7 0 = 0x20 ∧ p.2.1.extractLsb 15 8 = p.2.2 ∧
        p.2.1.extractLsb 63 16 ≠ 0)) = true) := by decide +kernel

theorem holdsInput_withInput {bytes : List Byte} (h : bytes.length < 2 ^ 16) : HoldsInput (withInput bytes) bytes := by
  refine ⟨by simpa [withInput] using h, fun k hk => ?_⟩
  simp [withInput, readCell_writeCells, hk]

theorem suppliesValues_withValues {values : List Half} (h : values.length < 2 ^ 8) :
    SuppliesValues (withValues values) values := by
  refine ⟨by simpa [withValues] using h, fun k hk => ?_⟩
  simp [withValues, readCell_writeCells, hk]

theorem witness_CrcBlockTakesTheCrcOfTheInput :
    HoldsInput (withInput []) [] ∧ HoldsInput (withInput (List.replicate 256 0xFF)) (List.replicate 256 0xFF) ∧
    FirstUnwritten { withInput [0x01, 0x03] with ilen := 3 } .ibuf 3 2 ∧
    FirstUnwritten { withInput [] with ilen := 256 } .ibuf 256 0 := by
  refine ⟨holdsInput_withInput (by decide +kernel), holdsInput_withInput (by decide +kernel), ⟨?_, ?_, ?_⟩, ⟨?_,
    ?_, ?_⟩⟩ <;>
    decide +kernel

theorem witness_StreamingTheCrcEqualsTheBlock : HoldsInput (withInput [0x31, 0x32, 0x33]) [0x31, 0x32, 0x33] :=
  holdsInput_withInput (by decide)

theorem witness_OneChangedByteChangesTheCrc : (0x00 : Byte) ≠ 0x01 ∧ (0x7F : Byte) ≠ 0xFF := by decide

/-- The operand ranges of BUILD.RD, BUILD.RD.DEF and BUILD.WS. -/
theorem witness_BuildOperands : (0 : Byte) ≤ 247 ∧ (247 : Byte) ≤ 247 ∧ (248 : Byte) > 247 ∧ (255 : Byte) > 247 ∧
    (1 : Half) ≠ 0 ∧ (0xFFFF : Half) ≠ 0 := by decide

theorem witness_BuildWmBuildsTheListRequest :
    (SuppliesValues (withValues [7]) [7] ∧
      SuppliesValues (withValues (List.replicate 127 0xFFFF)) (List.replicate 127 0xFFFF) ∧
      (1 : Half).toNat = [(7 : Half)].length ∧ (127 : Half).toNat = (List.replicate 127 (0xFFFF : Half)).length) ∧
    ((withValues []).wcount = 0 ∧ { withValues [] with wcount := 128 }.wcount > 127 ∧
      (2 : Half).toNat ≠ (withValues [7]).wcount.toNat ∧ (257 : Half).toNat ≠ (withValues [7]).wcount.toNat) ∧
    (FirstUnwritten { withValues [7] with wcount := 2 } .wdata 2 1 ∧
      FirstUnwritten { withValues [] with wcount := 127 } .wdata 127 0) := by
  refine ⟨⟨suppliesValues_withValues (by decide +kernel), suppliesValues_withValues (by decide +kernel), ?_, ?_⟩,
    ?_, ⟨?_, ?_, ?_⟩, ⟨?_, ?_, ?_⟩⟩ <;>
    decide +kernel

theorem witness_BuildWmImpTakesItsCountFromTheList :
    SuppliesValues (withValues [0x0102, 0x0304]) [0x0102, 0x0304] ∧
    FirstUnwritten { withValues [7] with wcount := 127 } .wdata 127 1 := by
  refine ⟨⟨?_, ?_⟩, ?_, ?_, ?_⟩ <;> decide +kernel

theorem witness_FailedBuildLeavesNoFrame : (0x0001020701FF0310 : Word).extractLsb 7 0 = 0x10 ∧
    ∃ t, command 0x0001020701FF0310 State.reset = .next t ∧ t.status = 0x0107 :=
  ⟨by decide, exists_next (by decide +kernel)⟩

theorem witness_SuccessfulBuildLeavesAWellFormedFrame :
    ∃ t, command 0x0002010101011010 (withValues [100, 200]) = .next t ∧ t.status = 0x0002 :=
  exists_next (by decide +kernel)

/-- The hypotheses of R150's checks for a function code: lengths 4 and 5, an absent and a wrong echo, an element that
holds no value, and a CRC that does not match. -/
theorem witness_ParseChecks : ∀ fc ∈ ([0x03, 0x06, 0x10] : List Byte),
    (withInput [0x01, fc, 0x00, 0x00]).ilen.toNat < 5 ∧
    (5 ≤ { withInput [0x01] with ilen := 5 }.ilen.toNat ∧
      { withInput [0x01] with ilen := 5 }.mem.read .ibuf 1 = none) ∧
    (5 ≤ (withInput [0x01, 0x83, 0x02, 0xC0, 0xF1]).ilen.toNat ∧
      (withInput [0x01, 0x83, 0x02, 0xC0, 0xF1]).mem.read .ibuf 1 = some (.bits8 0x83) ∧ (0x83 : Byte) ≠ fc) ∧
    ((withInput [0x01, fc, 0x00, 0x00]).mem.read .ibuf 1 = some (.bits8 fc) ∧
      (withInput [0x01, fc, 0x00, 0x00]).mem.read .ibuf 4 = none ∧
      ∀ k, k < 4 → ((withInput [0x01, fc, 0x00, 0x00]).mem.read .ibuf k).isSome = true) ∧
    ((withInput ([0x01, fc, 0x00] ++ [0x00, 0x00])).ilen.toNat = 5 ∧
      (∀ k, k < 5 → (withInput ([0x01, fc, 0x00] ++ [0x00, 0x00])).mem.read .ibuf k =
        ([0x01, fc, 0x00] ++ [0x00, 0x00])[k]?.map .bits8) ∧ 0 ≠ (crc16 [0x01, fc, 0x00]).toNat) := by decide +kernel

theorem witness_ParseRdDecodesTheValues :
    HoldsInput (withInput (frameOf ([0x01, 0x03, 0x00] ++ valueBytes []))) (frameOf ([0x01, 0x03,
      0x00] ++ valueBytes [])) ∧
    HoldsInput (withInput (frameOf ([0x01, 0x03, 0xFF] ++ valueBytes [0x0102]))) (frameOf ([0x01, 0x03,
      0xFF] ++ valueBytes [0x0102])) ∧
    HoldsInput (withInput (frameOf ([0x01, 0x03, 0x01] ++ [0x07]))) (frameOf ([0x01, 0x03, 0x01] ++ [0x07])) := by
  refine ⟨⟨?_, ?_⟩, ⟨?_, ?_⟩, ?_, ?_⟩ <;> decide +kernel

theorem witness_ParseWriteAcceptsTheEcho :
    HoldsInput (withInput (frameOf ([0x01, 0x06] ++ [0x00]))) (frameOf ([0x01, 0x06] ++ [0x00])) ∧
    HoldsInput (withInput (frameOf ([0xFF, 0x10] ++ [0x00]))) (frameOf ([0xFF, 0x10] ++ [0x00])) := by
  refine ⟨⟨?_, ?_⟩, ?_, ?_⟩ <;> decide +kernel

/-- An error before check 3 is reached, one at it, and one after it. -/
theorem witness_FailedParseLeavesNoValues :
    (∃ t, command 0x0620 (withInput [0x01, 0x06, 0x00, 0x00]) = .next t ∧ t.status = 0x0207) ∧
    (∃ t, command 0x10620 (withInput [0x01, 0x06, 0x00, 0x00]) = .next t ∧ t.status = 0x0107) ∧
    (∃ t, command 0x0620 (withInput [0x01, 0x06, 0x00, 0x00, 0x00]) = .next t ∧ t.status = 0x0307) ∧
    (∃ t, command 0x0320 (withInput [0x01, 0x03, 0x03, 0x00, 0x01, 0x02, 0xC5, 0xDF]) = .next t ∧
      t.status = 0x0207) :=
  ⟨exists_next (by decide +kernel), exists_next (by decide +kernel), exists_next (by decide +kernel),
    exists_next (by decide +kernel)⟩

/-- Each built frame is the input of the state that parses it. -/
theorem witness_BuiltFramesRoundTripThroughParse :
    (∃ t, exec (.buildWs 0x01 0x0300 1) State.reset = .next t ∧ t.status = 0x0002 ∧
      (withInput (frameOf (shortBody 0x01 0x06 0x0300 1))).ilen = t.olen ∧ ∀ k, k < t.olen.toNat →
        (withInput (frameOf (shortBody 0x01 0x06 0x0300 1))).mem.read .ibuf k = t.mem.read .obuf k) ∧
    (∃ t, exec (.buildWm 0x01 0x0101 1) (withValues [100]) = .next t ∧ t.status = 0x0002 ∧
      (withInput (frameOf (listBody 0x01 0x0101 [100]))).ilen = t.olen ∧ ∀ k, k < t.olen.toNat →
        (withInput (frameOf (listBody 0x01 0x0101 [100]))).mem.read .ibuf k = t.mem.read .obuf k) ∧
    HoldsInput (withInput (frameOf ([0x01, 0x03, BitVec.ofNat 8 (2 * [(5 : Half)].length)] ++ valueBytes [5])))
      (frameOf ([0x01, 0x03, BitVec.ofNat 8 (2 * [(5 : Half)].length)] ++ valueBytes [5])) ∧
    (∃ t, exec (.buildRd 0x01 0x0207 1) State.reset = .next t ∧ t.status = 0x0002 ∧
      (withInput (frameOf (shortBody 0x01 0x03 0x0207 1))).ilen = t.olen ∧ ∀ k, k < t.olen.toNat →
        (withInput (frameOf (shortBody 0x01 0x03 0x0207 1))).mem.read .ibuf k = t.mem.read .obuf k) :=
  ⟨exists_next (by decide +kernel), exists_next (by decide +kernel), ⟨by decide +kernel, by decide +kernel⟩,
    exists_next (by decide +kernel)⟩

/-- An accepted response, and the same with its byte `k` replaced: the first, the function code and the last. -/
theorem witness_OneCorruptedByteIsDetected :
    (∃ t, exec .parseWs (withInput [0x05, 0x06, 0x03, 0x00, 0x00, 0x01, 0x49, 0xCA]) = .next t ∧ t.status = 0x0003) ∧
    ∀ k ∈ ([0, 1, 7] : List Nat), ∀ b : Byte,
      (withInput ([0x05, 0x06, 0x03, 0x00, 0x00, 0x01, 0x49, 0xCA].set k b)).ilen =
        (withInput [0x05, 0x06, 0x03, 0x00, 0x00, 0x01, 0x49, 0xCA]).ilen ∧
      (withInput ([0x05, 0x06, 0x03, 0x00, 0x00, 0x01, 0x49, 0xCA].set k b)).mem.read .ibuf k = some (.bits8 b) ∧
      ∀ j, j ≠ k → (withInput ([0x05, 0x06, 0x03, 0x00, 0x00, 0x01, 0x49, 0xCA].set k b)).mem.read .ibuf j =
        (withInput [0x05, 0x06, 0x03, 0x00, 0x00, 0x01, 0x49, 0xCA]).mem.read .ibuf j := by
  refine ⟨exists_next (by decide +kernel), fun k hk b => ⟨by simp [withInput], ?_, fun j hj => ?_⟩⟩
  · have : k < 8 := by simp at hk; omega
    simp [withInput, readCell_writeCells, this]
  · simp [withInput, readCell_writeCells, List.getElem?_set_ne (Ne.symm hj)]

theorem witness_EveryCommandButNopWritesStatus : (0x100 : Word) ≠ 0 ∧
    ∃ t, command 0x100 State.reset = .next t ∧ t.status = 0x0107 := ⟨by decide, exists_next (by decide +kernel)⟩

/-- Every command answers a next state somewhere: the hypothesis of the statements over `exec i s = .next t`. -/
theorem witness_EachInstructionCompletes : ∀ p ∈ ([(.nop, 0), (.crcInit, 1), (.crcUpdate 0x80, 1), (.crcBlock, 1),
    (.buildRd 0 0 1, 2), (.buildRdDef 247 0xFFFF, 2), (.buildWs 1 1 0, 2), (.buildWm 1 1 1, 0x0107),
      (.buildWmImp 1 1, 0x0107),
    (.parseRd, 0x0207), (.parseWs, 0x0003), (.parseWm, 0x0207)] : List (Instr × Half)),
    ∃ t, exec p.1 (withInput [0x05, 0x06, 0x03, 0x00, 0x00, 0x01, 0x49, 0xCA]) = .next t ∧ t.status = p.2 := by
  intro p hp
  fin_cases hp <;> exact exists_next (by decide +kernel)

/-- A legal state that is not the reset state and takes a step. -/
theorem witness_EveryStepKeepsTheLegalStates :
    { withCommand 0x0320 with ilen := 256, wcount := 255, status := 0x0307 }.Inv ∧
    ∃ t, step { withCommand 0x0001030000010610 with ilen := 256, wcount := 255, status := 0x0307 } = .next t ∧
      t.olen = 8 := by
  refine ⟨⟨by decide, by decide, by decide, by decide, by decide, by decide, fun _ _ => rfl, fun _ _ => rfl, ?_, ?_⟩,
    exists_next (by decide +kernel)⟩ <;> intro i <;> simp [withCommand, State.withFetchWord, State.reset,
      Memory.empty]

/-- A state that holds a frame (V-BLD-11) and takes a step. -/
theorem witness_EveryStepKeepsTheOutputAWholeFrame :
    { withCommand 0x0620 with
      olen := 8
      mem := { Memory.empty with obuf := writeCells [] 0 [0x01, 0x06, 0x03, 0x00, 0x00, 0x01, 0x48,
        0x4E] } }.FrameInv ∧
    ∃ t, step { withCommand 0x0620 with
      olen := 8
      mem := { Memory.empty with obuf := writeCells [] 0 [0x01, 0x06, 0x03, 0x00, 0x00, 0x01, 0x48,
        0x4E] } } = .next t ∧
      t.status = 0x0207 :=
  ⟨.inr ⟨[0x01, 0x06, 0x03, 0x00, 0x00, 0x01, 0x48, 0x4E], rfl, 0x01, 0x06, [0x03, 0x00, 0x00, 0x01],
    by decide +kernel,
    by decide, by decide⟩, exists_next (by decide +kernel)⟩

/-- A BUILD on success and on failure, a PARSE past check 2, one with the wrong echo and one too short, a rejected word,
and a host access. -/
theorem witness_OnlyTheNamedCommandsWriteCrc :
    (∃ t, exec (.buildRdDef 0x01 0x0000) State.reset = .next t ∧ t.status = 0x0002 ∧ t.crc = 0x0A84) ∧
    (∃ t, exec (.buildWmImp 0x01 0x0000) State.reset = .next t ∧ t.status = 0x0107 ∧ t.crc = 0xFFFF) ∧
    (∃ t, exec .parseWs (withInput [0x05, 0x06, 0x03, 0x00, 0x00, 0x01, 0x49, 0xCA]) = .next t ∧ t.crc = 0xCA49) ∧
    (∃ t, exec .parseWm (withInput [0x05, 0x06, 0x03, 0x00, 0x00, 0x01, 0x49, 0xCA]) = .next t ∧ t.crc = 0xFFFF) ∧
    (∃ t, exec .parseRd (withInput [0x01, 0x03, 0x00, 0x00]) = .next t ∧ t.crc = 0xFFFF) ∧
    (decode 0x04 = .error (.reservedOp 0x04) ∧ ∃ t, command 0x04 State.reset = .next t ∧ t.crc = 0xFFFF) ∧
    (∃ t, access (.writeReg .ilen 256) State.reset = .next t ∧ t.ilen = 256) :=
  ⟨exists_next (by decide +kernel), exists_next (by decide +kernel), exists_next (by decide +kernel),
    exists_next (by decide +kernel), exists_next (by decide +kernel), ⟨by decide, exists_next (by decide +kernel)⟩,
    exists_next (by decide +kernel)⟩

theorem witness_CommandsReadOnlyBelowTheirLengths :
    (∀ k, k < { withInput [0x31, 0x32] with ilen := 1 }.ilen.toNat →
      readCell ([(0, 0x31), (5, 0xFF)] : Cells 8) k = readCell (withInput [0x31, 0x32]).mem.ibuf k) ∧
    (∀ k, k < (withInput [0x31, 0x32]).wcount.toNat →
      readCell ([(0, 0xFFFF)] : Cells 16) k = readCell (withInput [0x31, 0x32]).mem.wdata k) := by decide +kernel

/-- The largest value and index of each access that is no violation. -/
theorem witness_HostAccessesMoveOneElementOrRegister :
    (256 < 2 ^ 16 ∧ 256 ≤ State.reset.cfg.ibufCap ∧ 255 < 2 ^ 8) ∧
    ¬IsHostViolation State.reset.cfg (.writeBuf .ibuf 255 0xFF) ∧
      ¬IsHostViolation State.reset.cfg (.writeBuf .wdata 126 0xFFFF) ∧
    ¬IsHostViolation State.reset.cfg (.readBuf .obuf 262) ∧ ¬IsHostViolation State.reset.cfg (.readBuf .rval 124) ∧
    (withInput [0x31]).mem.read .ibuf 0 = some (.bits8 0x31) := by
  simp only [IsHostViolation]
  decide +kernel

theorem witness_ExactlyTheListedActionsAreRefused :
    act (.access (.readBuf .rval 125)) State.reset = .refused .hostViolation ∧
    act (.secondAgent (.readReg .crc)) State.reset = .refused .multiHost ∧
    IsHostViolation State.reset.cfg (.readBuf .rval 125) ∧ IsHostViolation State.reset.cfg (.readBuf .obuf 263) :=
  ⟨refusedAs_eq (by decide +kernel), rfl, by simp only [IsHostViolation]; decide,
    by simp only [IsHostViolation]; decide⟩

theorem witness_FaultsAreReadsOfElementsThatHoldNoValue :
    act (.access (.readBuf .ibuf 255)) State.reset = .fault (.unwrittenRead .ibuf 255) ∧
    act (asmWord 0x03) { State.reset with ilen := 1 } = .fault (.unwrittenRead .ibuf 0) ∧
    act (asmWord 0x1010) { State.reset with wcount := 127 } = .fault (.unwrittenRead .wdata 0) ∧
    ¬IsHostViolation State.reset.cfg (.readBuf .ibuf 255) ∧ State.reset.mem.read .ibuf 255 = none :=
  ⟨faultOf_eq (by decide +kernel), faultOf_eq (by decide +kernel), faultOf_eq (by decide +kernel),
    by simp only [IsHostViolation]; decide, rfl⟩

theorem witness_LoadingFillsTheInputs :
    State.reset.cfg.Legal ∧ Config.Legal { ibufCap := 5 } ∧ Config.Legal { ibufCap := 65535 } ∧
    (asmLoadI Config.reference []).isSome = true ∧ (asmLoadI Config.reference (List.replicate 256 0)).isSome = true ∧
    (asmLoadI Config.reference (List.replicate 257 0)).isSome = false ∧
    (asmLoadW []).isSome = true ∧ (asmLoadW (List.replicate 127 0)).isSome = true := by decide +kernel

theorem witness_MarksAreSetOnceAndNeverCleared :
    { State.reset with faultMark := some (.unwrittenRead .ibuf 0) }.faultMark = some (.unwrittenRead .ibuf 0) ∧
    { State.reset with refusalMark := some .multiHost }.refusalMark = some .multiHost ∧
    step { withCommand 3 with ilen := 1 } = .fault (.unwrittenRead .ibuf 0) ∧
    step { State.reset with script := [.access (.writeReg .status 0)] } = .refused .hostViolation :=
  ⟨rfl, rfl, faultOf_eq (by decide +kernel), refusedAs_eq (by decide +kernel)⟩

theorem witness_UnmarkedRunsAreTheSafeRuns : (withCommand 3).unmarked = true ∧
    (nextOf (Host.Core.run Sys2Proof.core 1 (withCommand 3))).map State.crc = some 0xFFFF := by decide +kernel

end Sys2Proof.Tests
end

section
/-! PROOFS. The statements about the state (spec/10_state.md): what a command writes to STATUS and CRC, what every action
leaves of the run, and the two invariants. -/

namespace Sys2Proof.Machine

/-! ## STATUS and CRC at the end of a command -/

@[simp] theorem finish_status (k : Result) (s : State) : (finish k s).status = successStatus k := rfl

@[simp] theorem finish_crc (k : Result) (s : State) : (finish k s).crc = s.crc := rfl

@[simp] theorem raise_status (family : Family) (e : ErrorKind) (s : State) :
    (raise family e s).status = errorStatus e := rfl

@[simp] theorem raise_crc (family : Family) (e : ErrorKind) (s : State) : (raise family e s).crc = s.crc := by
  cases family <;> rfl

@[simp] theorem emit_status (body : List Byte) (s : State) : (emit body s).status = 0x0002 := successStatus_frame

@[simp] theorem emit_crc (body : List Byte) (s : State) : (emit body s).crc = crc16 body := rfl

@[simp] theorem decodeWriteResponse_status (body : List Byte) (s : State) :
    (decodeWriteResponse body s).status = 0x0003 := successStatus_success

@[simp] theorem decodeWriteResponse_crc (body : List Byte) (s : State) : (decodeWriteResponse body s).crc = s.crc := rfl

/-- R151: a value field of odd length is InvalidResponse, any other is accepted. -/
theorem decodeReadResponse_status (body : List Byte) (s : State) :
    (decodeReadResponse body s).status = 0x0004 ∨ (decodeReadResponse body s).status = 0x0207 := by
  unfold decodeReadResponse
  split
  · exact .inr (by simp)
  · exact .inl (by simp)

@[simp] theorem decodeReadResponse_crc (body : List Byte) (s : State) : (decodeReadResponse body s).crc = s.crc := by
  unfold decodeReadResponse
  split <;> simp

/-- R34, R123: a frame that fits OBUF is what host reads find after `emit`. -/
theorem emit_holdsFrame {body : List Byte} (hlen : body.length + 2 ≤ Config.obufCap) (s : State) :
    HoldsFrame (emit body s) (body ++ crcBytes (crc16 body)) := by
  rw [emit_eq]
  refine ⟨?_, fun i => by rw [read_obuf, setStatus_mem, setCrc_mem, storeFrame_mem_obuf, readCell_store]⟩
  simp only [setStatus_olen, setCrc_olen, storeFrame_olen, List.length_append, crcBytes_length, BitVec.toNat_ofNat]
  exact Nat.mod_eq_of_lt (Nat.lt_of_le_of_lt hlen (by decide))

/-- R123: a frame without its last two bytes is its body. -/
theorem take_append_crcBytes (body : List Byte) (c : Half) :
    (body ++ crcBytes c).take ((body ++ crcBytes c).length - 2) = body := by
  simp

/-- R34, R84: the longest body, with its CRC, fits OBUF. -/
theorem requestBody_length {dev fc : Byte} {reg : Half} {p : List Byte} (hp : p.length ≤ 257) :
    ([dev, fc] ++ be16 reg ++ p).length + 2 ≤ Config.obufCap := by
  simp only [List.length_append, List.length_cons, List.length_nil, be16_length, Config.obufCap]
  omega

/-! ## The input of a command -/

/-- R28, R32: IBUF[0..ILEN) holds `bytes` if and only if reading all of it gives them. -/
theorem holdsInput_iff (s : State) (bytes : List Byte) :
    HoldsInput s bytes ↔ readCells s.mem.ibuf 0 s.ilen.toNat = .ok bytes := by
  have hinj : Function.Injective (Option.map Reply.bits8) :=
    Option.map_injective fun _ _ h => Reply.bits8.inj h
  simp only [HoldsInput, readCells_eq_ok_iff, read_ibuf, hinj.eq_iff, Nat.zero_add]
  constructor
  · rintro ⟨hlen, hread⟩
    exact ⟨hlen.symm, hlen ▸ hread⟩
  · rintro ⟨hlen, hread⟩
    exact ⟨hlen.symm, hlen ▸ hread⟩

/-- Reading `n` elements and then two more. -/
theorem readCells_append_two {width : Nat} {c : Cells width} {n : Nat} {vs : List (BitVec width)} {x y : BitVec width}
    (hvs : readCells c 0 n = .ok vs) (hx : readCell c n = some x) (hy : readCell c (n + 1) = some y) :
    readCells c 0 (n + 2) = .ok (vs ++ [x, y]) := by
  rw [readCells_eq_ok_iff] at hvs ⊢
  obtain ⟨rfl, hread⟩ := hvs
  refine ⟨by simp, fun k hk => ?_⟩
  rcases Nat.lt_or_ge k vs.length with hlt | hge
  · rw [hread k hlt, List.getElem?_append_left hlt]
  · obtain rfl | rfl : k = vs.length ∨ k = vs.length + 1 := by omega
    · simp [hx]
    · simp [hy]

/-! ## What the PARSE pipeline leaves -/

/-- R150 check 3: when it answers a next state, it has read every byte of IBUF[0..ILEN), and the two last decide. -/
theorem checkCrc_next {n : Nat} {decodeFrame : List Byte → State → State} {s t : State} (hn : 2 ≤ n)
    (h : checkCrc n decodeFrame s = .next t) :
    ∃ body lo hi, readCells s.mem.ibuf 0 n = .ok (body ++ [lo, hi]) ∧
      (crcOfBytes lo hi = crc16 body ∧ t = decodeFrame body (setCrc (crc16 body) s) ∨
        crcOfBytes lo hi ≠ crc16 body ∧ t = raise .parse .crcCheckFailed (setCrc (crc16 body) s)) := by
  unfold checkCrc at h
  split at h
  · cases h
  · rename_i body hbody
    split at h
    · cases h
    · cases h
    · rename_i lo hi hlo hhi
      have hall : readCells s.mem.ibuf 0 (n - 2 + 2) = .ok (body ++ [lo, hi]) :=
        readCells_append_two hbody hlo (by rwa [show n - 2 + 1 = n - 1 by omega])
      refine ⟨body, lo, hi, by rwa [Nat.sub_add_cancel hn] at hall, ?_⟩
      split at h <;> cases h
      · exact .inl ⟨‹_›, rfl⟩
      · exact .inr ⟨‹_›, rfl⟩

/-- R150: a PARSE that answers a next state failed the length or the echo check, or it passed both and what the frame's
last two bytes and its body say was done. -/
theorem parseWith_next_checks {fc : Byte} {decodeFrame : List Byte → State → State} {s t : State}
    (h : parseWith fc decodeFrame s = .next t) :
    ((s.ilen.toNat < 5 ∨ readCell s.mem.ibuf 1 ≠ some fc) ∧ t = raise .parse .invalidResponse s) ∨
      (5 ≤ s.ilen.toNat ∧ readCell s.mem.ibuf 1 = some fc ∧ ∃ body lo hi, HoldsInput s (body ++ [lo, hi]) ∧
        (crcOfBytes lo hi = crc16 body ∧ t = decodeFrame body (setCrc (crc16 body) s) ∨
          crcOfBytes lo hi ≠ crc16 body ∧ t = raise .parse .crcCheckFailed (setCrc (crc16 body) s))) := by
  unfold parseWith at h
  split at h
  · cases h
    exact .inl ⟨.inl ‹_›, rfl⟩
  · split at h
    · cases h
    · rename_i h5 echo hecho
      split at h
      · subst echo
        obtain ⟨body, lo, hi, hall, hend⟩ := checkCrc_next (by omega) h
        exact .inr ⟨by omega, hecho, body, lo, hi, (holdsInput_iff s _).mpr hall, hend⟩
      · rename_i hne
        cases h
        exact .inl ⟨.inr (by simpa [hecho] using hne), rfl⟩

/-- R25: the STATUS values of a PARSE whose decode step reports `ok` or InvalidResponse. -/
theorem parseWith_status {fc : Byte} {decodeFrame : List Byte → State → State} {ok : Half} {s t : State}
    (hdecode : ∀ body s, (decodeFrame body s).status = ok ∨ (decodeFrame body s).status = 0x0207)
    (h : parseWith fc decodeFrame s = .next t) : t.status = ok ∨ t.status = 0x0207 ∨ t.status = 0x0307 := by
  rcases parseWith_next h with rfl | ⟨body, -, -, rfl | rfl⟩
  · exact .inr (.inl (by simp))
  · exact .inr (.inr (by simp))
  · exact (hdecode body _).imp_right .inl

/-- R27, R150: the CRC register after a PARSE whose decode step leaves CRC alone. -/
theorem parseWith_crc {fc : Byte} {decodeFrame : List Byte → State → State} {s t : State}
    (hdecode : ∀ body s, (decodeFrame body s).crc = s.crc) (h : parseWith fc decodeFrame s = .next t) :
    CrcAfterParse fc s t := by
  rcases parseWith_next_checks h with ⟨hfail, rfl⟩ | ⟨h5, hecho, body, lo, hi, hin, hend⟩
  · refine .inr ⟨hfail.imp_right fun hne he => hne ?_, by simp⟩
    obtain ⟨b, hb, hfc⟩ := Option.map_eq_some_iff.mp he
    rw [hb, Reply.bits8.inj hfc]
  · refine .inl ⟨h5, by simp [hecho], body ++ [lo, hi], hin, ?_⟩
    rcases hend with ⟨-, rfl⟩ | ⟨-, rfl⟩ <;> simp [hdecode]

/-! ## What the effect of an instruction leaves -/

/-- R26: every family but the NOP's leaves a STATUS other than 0. -/
theorem Effect.status_ne_zero {s t : State} {k : Kind} (h : Effect s k t) (hk : k ≠ .nop) : t.status ≠ 0 := by
  cases h with
  | nothing => exact absurd rfl hk
  | crc | frame | buildFailed | badResponse | badField | badCrc | values | success => simp

/-- R25: the STATUS values of a BUILD. -/
theorem Effect.build_status {s t : State} (h : Effect s .build t) : t.status = 0x0002 ∨ t.status = 0x0107 := by
  cases h with
  | frame => exact .inl (emit_status _ _)
  | buildFailed => exact .inr (by simp)

/-- R27, R123, R124: the CRC register after a BUILD. -/
theorem Effect.build_crc {s t : State} (h : Effect s .build t) : CrcAfterBuild s t := by
  cases h with
  | frame dev fc reg p hdev hfc hlen =>
    exact .inl ⟨emit_status _ s, _, emit_holdsFrame (requestBody_length hlen) s, by rw [emit_crc, take_append_crcBytes]⟩
  | buildFailed => exact .inr ⟨by simp, by simp⟩

/-- R40, R22, R37: an effect touches no mark, no parameter and nothing of the host's side of the run. -/
theorem Effect.sameRun {s t : State} {k : Kind} (h : Effect s k t) : SameRun s t := by
  cases h <;> exact ⟨rfl, rfl, rfl, rfl, rfl, rfl⟩

theorem raise_sameRun (family : Family) (e : ErrorKind) (s : State) : SameRun s (raise family e s) := by
  cases family <;> exact ⟨rfl, rfl, rfl, rfl, rfl, rfl⟩

theorem exec_sameRun {i : Instr} {s t : State} (h : exec i s = .next t) : SameRun s t := (exec_effect h).sameRun

theorem command_sameRun {w : Word} {s t : State} (h : command w s = .next t) : SameRun s t := by
  rcases command_next h with ⟨i, -, hi⟩ | ⟨r, -, rfl⟩
  · exact exec_sameRun (s := latchCmd w s) hi
  · exact raise_sameRun _ _ (latchCmd w s)

/-- An action leaves of the run everything but the replies. -/
theorem act_sameRun {e : Event} {s t : State} (h : act e s = .next t) : SameRun { s with replies := t.replies } t := by
  rcases act_next h with ⟨w, -, hw⟩ | ⟨v, -, -, -, rfl⟩ | ⟨v, -, -, rfl⟩ | ⟨i, v, -, -, -, rfl⟩ | ⟨i, v, -, -, -, rfl⟩ |
    ⟨a, r, -, rfl⟩ | ⟨-, rfl⟩
  · obtain ⟨hf, hr, hcfg, hscript, hpc, -⟩ := command_sameRun hw
    exact ⟨hf, hr, hcfg, hscript, hpc, rfl⟩
  all_goals exact ⟨rfl, rfl, rfl, rfl, rfl, rfl⟩

/-! ## The step and the index (R22, R213) -/

theorem step_of_none {s : State} (h : s.script[s.pc]? = none) : step s = .next s := by
  rw [step, h]

/-- Settles O13: what an action leaves of the run (`act_sameRun`), after the index has advanced. -/
theorem eachStepTakesTheNextHostAction : Obligations.EachStepTakesTheNextHostAction := by
  refine ⟨fun s t hsome h => ?_, fun s => step_of_none, fun i s t h => ?_⟩
  · rcases step_next h with ⟨hnone, -⟩ | ⟨e, -, he⟩
    · exact absurd hnone hsome
    · obtain ⟨-, -, hcfg, hscript, hpc, -⟩ := act_sameRun he
      exact ⟨hpc, hscript, hcfg⟩
  · obtain ⟨-, -, -, hscript, hpc, -⟩ := exec_sameRun h
    exact ⟨hpc, hscript⟩

/-! ## The marks (R37) -/

theorem step_marks {s t : State} (h : step s = .next t) :
    t.faultMark = s.faultMark ∧ t.refusalMark = s.refusalMark := by
  rcases step_next h with ⟨-, rfl⟩ | ⟨e, -, he⟩
  · exact ⟨rfl, rfl⟩
  · obtain ⟨hf, hr, -⟩ := act_sameRun he
    exact ⟨hf, hr⟩

@[simp] theorem stoppedState_faultMark (e : Event) (s : State) : (stoppedState e s).faultMark = s.faultMark := by
  unfold stoppedState
  split
  · split <;> rfl
  · rfl

@[simp] theorem stoppedState_refusalMark (e : Event) (s : State) : (stoppedState e s).refusalMark = s.refusalMark := by
  unfold stoppedState
  split
  · split <;> rfl
  · rfl

/-- A step that does not stop is what `advance` does. -/
theorem advance_of_next {s t : State} (h : step s = .next t) : advance s = t := by
  rcases step_next h with ⟨hnone, rfl⟩ | ⟨e, hsome, he⟩
  · simp only [advance, hnone]
  · simp only [advance, hsome, record, he]

theorem advance_of_fault {s : State} {f : Fault} (h : step s = .fault f) :
    ∃ e, advance s = markFault f (stoppedState e (advancePc s)) := by
  unfold step at h
  split at h
  · cases h
  · rename_i e hsome
    exact ⟨e, by simp only [advance, hsome, record, h]⟩

theorem advance_of_refused {s : State} {r : Refusal} (h : step s = .refused r) :
    ∃ e, advance s = markRefusal r (stoppedState e (advancePc s)) := by
  unfold step at h
  split at h
  · cases h
  · rename_i e hsome
    exact ⟨e, by simp only [advance, hsome, record, h]⟩

/-- R37: a fault is recorded unless one is recorded already. -/
theorem advance_faultMark_of_fault {s : State} {f : Fault} (h : step s = .fault f) :
    (advance s).faultMark = s.faultMark.or (some f) := by
  obtain ⟨e, he⟩ := advance_of_fault h
  simp [he]

theorem advance_refusalMark_of_refused {s : State} {r : Refusal} (h : step s = .refused r) :
    (advance s).refusalMark = s.refusalMark.or (some r) := by
  obtain ⟨e, he⟩ := advance_of_refused h
  simp [he]

theorem advance_keeps_faultMark {s : State} {f : Fault} (hmark : s.faultMark = some f) :
    (advance s).faultMark = some f := by
  cases hs : step s with
  | next t => rw [advance_of_next hs, (step_marks hs).1, hmark]
  | fault f' => rw [advance_faultMark_of_fault hs, hmark, Option.some_or]
  | refused r =>
    obtain ⟨e, he⟩ := advance_of_refused hs
    simp [he, hmark]

theorem advance_keeps_refusalMark {s : State} {r : Refusal} (hmark : s.refusalMark = some r) :
    (advance s).refusalMark = some r := by
  cases hs : step s with
  | next t => rw [advance_of_next hs, (step_marks hs).2, hmark]
  | fault f =>
    obtain ⟨e, he⟩ := advance_of_fault hs
    simp [he, hmark]
  | refused r' => rw [advance_refusalMark_of_refused hs, hmark, Option.some_or]

/-- Settles O53: by the three outcomes of the step that `advance` records. -/
theorem marksAreSetOnceAndNeverCleared : Obligations.MarksAreSetOnceAndNeverCleared := by
  refine ⟨⟨rfl, rfl⟩, fun s f => advance_keeps_faultMark, fun s r => advance_keeps_refusalMark, fun s f hmark hs => ?_,
    fun s r hmark hs => ?_, fun s t => step_marks⟩
  · rw [advance_faultMark_of_fault hs, hmark, Option.none_or]
  · rw [advance_refusalMark_of_refused hs, hmark, Option.none_or]

/-! ## STATUS (R25, R26) -/

theorem unlessReserved_ne_ok {family : Family} {mask w : Word} {i j : Instr} (h : i ≠ j) :
    unlessReserved family mask w i ≠ .ok j :=
  fun he => h (unlessReserved_eq_ok he).2

theorem decodeBuild_ne_nop (w : Word) : decodeBuild w ≠ .ok .nop := by
  unfold decodeBuild
  split_ifs <;> simp [unlessReserved_ne_ok]

theorem decodeParse_ne_nop (w : Word) : decodeParse w ≠ .ok .nop := by
  unfold decodeParse
  split_ifs <;> simp [unlessReserved_ne_ok]

/-- R72, R75: NOP has one word. -/
theorem eq_zero_of_decode_nop {w : Word} (h : decode w = .ok .nop) : w = 0 := by
  unfold decode at h
  split_ifs at h with hop
  · have hrest := (and_maskN w).mp (unlessReserved_eq_ok h).1
    have hlow : w.toNat % 2 ^ 8 = 0 := by simpa [opField] using congrArg BitVec.toNat hop
    have hhigh : w.toNat / 2 ^ 8 % 2 ^ 56 = 0 := by
      simpa [Nat.shiftRight_eq_div_pow] using congrArg BitVec.toNat hrest
    exact BitVec.eq_of_toNat_eq (show w.toNat = 0 by have := w.isLt; omega)
  · exact absurd h (unlessReserved_ne_ok (by simp))
  · exact absurd h (unlessReserved_ne_ok (by simp))
  · exact absurd h (unlessReserved_ne_ok (by simp))
  · exact absurd h (decodeBuild_ne_nop w)
  · exact absurd h (decodeParse_ne_nop w)

theorem kindOf_ne_nop {i : Instr} (h : i ≠ .nop) : kindOf i ≠ .nop := by
  cases i with
  | nop => exact absurd rfl h
  | _ => nofun

theorem raise_setStatus (family : Family) (e : ErrorKind) (v : Half) (s : State) :
    raise family e (setStatus v s) = raise family e s := by
  cases family <;> rfl

/-- R26: an instruction other than NOP ends by writing STATUS and reads it nowhere. -/
theorem exec_setStatus {i : Instr} (hi : i ≠ .nop) (v : Half) (s : State) : exec i (setStatus v s) = exec i s := by
  cases i with
  | nop => exact absurd rfl hi
  | _ => rfl

theorem command_setStatus {w : Word} (hw : w ≠ 0) (v : Half) (s : State) :
    command w (setStatus v s) = command w s := by
  cases hd : decode w with
  | ok i =>
    rw [command_of_ok hd, command_of_ok hd]
    exact exec_setStatus (fun hi => hw (eq_zero_of_decode_nop (hi ▸ hd))) v (latchCmd w s)
  | error r =>
    rw [command_of_error hd, command_of_error hd]
    exact congrArg _ (raise_setStatus _ _ v (latchCmd w s))

theorem command_status_ne_zero {w : Word} (hw : w ≠ 0) {s t : State} (h : command w s = .next t) : t.status ≠ 0 := by
  rcases command_next h with ⟨i, hd, hi⟩ | ⟨r, -, rfl⟩
  · exact (exec_effect hi).status_ne_zero (kindOf_ne_nop fun hn => hw (eq_zero_of_decode_nop (hn ▸ hd)))
  · simp

/-- Settles O37: only the word 0 decodes to NOP, and every other instruction overwrites STATUS. -/
theorem everyCommandButNopWritesStatus : Obligations.EveryCommandButNopWritesStatus :=
  ⟨fun _ s v hw => command_setStatus hw v s, fun _ _ _ hw h => command_status_ne_zero hw h,
    fun s => command_of_ok (i := .nop) rfl s⟩

/-- Settles O38: the BUILD forms by their effect, the PARSE forms by what their decode steps report. -/
theorem eachInstructionReportsItsOwnStatusValues : Obligations.EachInstructionReportsItsOwnStatusValues := by
  intro i s t h
  have heffect := exec_effect h
  cases i with
  | nop => cases heffect; rfl
  | crcInit | crcUpdate | crcBlock => cases heffect; exact successStatus_crc
  | buildRd | buildRdDef | buildWs | buildWm | buildWmImp => exact heffect.build_status
  | parseRd => exact parseWith_status decodeReadResponse_status h
  | parseWs | parseWm => exact parseWith_status (fun body s => .inl (decodeWriteResponse_status body s)) h

/-! ## CRC (R27) -/

theorem execCrcBlock_crc {s t : State} (h : execCrcBlock s = .next t) :
    ∃ bytes, HoldsInput s bytes ∧ t.crc = crc16 bytes := by
  unfold execCrcBlock at h
  split at h
  · cases h
  · rename_i bytes hbytes
    cases h
    exact ⟨bytes, (holdsInput_iff s bytes).mpr hbytes, by simp⟩

/-- A rejected word leaves CRC alone. -/
theorem command_crc_of_error {w : Word} {r : Reject} {s t : State} (hd : decode w = .error r)
    (h : command w s = .next t) : t.crc = s.crc := by
  rw [command_of_error hd] at h
  cases h
  simp

/-- A host access that is no command leaves CRC alone. -/
theorem access_crc {a : HostAccess} {s t : State} (ha : ∀ v, a ≠ .writeReg .cmd v) (h : access a s = .next t) :
    t.crc = s.crc := by
  have hact : act (.access a) s = .next t := h
  rcases act_next hact with ⟨w, he, -⟩ | ⟨v, -, -, -, rfl⟩ | ⟨v, -, -, rfl⟩ | ⟨i, v, -, -, -, rfl⟩ |
    ⟨i, v, -, -, -, rfl⟩ | ⟨a, r, -, rfl⟩ | ⟨he, -⟩
  · exact absurd (Event.access.inj he) (ha _)
  · simp
  · simp
  · simp
  · simp
  · simp
  · cases he

/-- Settles O47: instruction by instruction, then the rejected words and the host accesses. -/
theorem onlyTheNamedCommandsWriteCrc : Obligations.OnlyTheNamedCommandsWriteCrc := by
  refine ⟨fun i s t h => ?_, fun _ _ _ _ => command_crc_of_error, fun _ _ _ => access_crc, fun _ _ => rfl⟩
  cases i with
  | nop | crcInit | crcUpdate => cases h; rfl
  | crcBlock => exact execCrcBlock_crc h
  | buildRd | buildRdDef | buildWs | buildWm | buildWmImp => exact (exec_effect h).build_crc
  | parseRd => exact parseWith_crc decodeReadResponse_crc h
  | parseWs | parseWm => exact parseWith_crc decodeWriteResponse_crc h

/-! ## The legal states: each named write keeps them -/

theorem latchCmd_inv {s : State} (h : s.Inv) (w : Word) : (latchCmd w s).Inv := { h with }

theorem setCrc_inv {s : State} (h : s.Inv) (c : Half) : (setCrc c s).Inv := { h with }

theorem setWcount_inv {s : State} (h : s.Inv) (v : Byte) : (setWcount v s).Inv := { h with }

theorem giveReply_inv {s : State} (h : s.Inv) (r : Reply) : (giveReply r s).Inv := { h with }

theorem advancePc_inv {s : State} (h : s.Inv) : (advancePc s).Inv := { h with }

theorem setStatus_inv {s : State} (h : s.Inv) {v : Half} (hv : v ∈ statusValues) : (setStatus v s).Inv :=
  { h with status := hv }

theorem setIlen_inv {s : State} (h : s.Inv) {v : Nat} (hv : v < 2 ^ 16) (hcap : v ≤ s.cfg.ibufCap) :
    (setIlen (BitVec.ofNat 16 v) s).Inv :=
  { h with ilen := by rwa [setIlen_ilen, BitVec.toNat_ofNat, Nat.mod_eq_of_lt hv] }

theorem setIbuf_inv {s : State} (h : s.Inv) {i : Nat} (hi : i < s.cfg.ibufCap) (v : Byte) : (setIbuf i v s).Inv :=
  { h with
    memory := setIbuf_wf h.memory i v
    ibuf := fun j hj => by
      have hj : s.cfg.ibufCap ≤ j := hj
      simpa [readCell_writeCell_other _ _ (show j ≠ i by omega)] using h.ibuf j hj }

theorem setWdata_inv {s : State} (h : s.Inv) {i : Nat} (hi : i < Config.wdataCap) (v : Half) : (setWdata i v s).Inv :=
  { h with
    memory := setWdata_wf h.memory i v
    wdata := fun j hj => by
      simpa [readCell_writeCell_other _ _ (show j ≠ i by omega)] using h.wdata j hj }

theorem storeFrame_inv {s : State} (h : s.Inv) {f : List Byte} (hf : f.length ≤ Config.obufCap) :
    (storeFrame f s).Inv := by
  have holen : (storeFrame f s).olen.toNat = f.length := by
    rw [storeFrame_olen, BitVec.toNat_ofNat, Nat.mod_eq_of_lt (Nat.lt_of_le_of_lt hf (by decide))]
  exact { h with
    memory := storeFrame_wf h.memory f
    olen := holen ▸ hf
    obuf := holen ▸ storeFrame_filled f s }

theorem dropFrame_inv {s : State} (h : s.Inv) : (dropFrame s).Inv :=
  { h with
    memory := dropFrame_wf h.memory
    olen := Nat.zero_le _
    obuf := dropFrame_filled s }

theorem storeValues_inv {s : State} (h : s.Inv) {vs : List Half} (hvs : vs.length ≤ s.cfg.rvalCap) :
    (storeValues vs s).Inv := by
  have hlt : vs.length < 2 ^ 16 := by
    obtain ⟨-, hcap⟩ := h.config
    simp only [Config.rvalCap] at hvs
    omega
  have hrcount : (storeValues vs s).rcount.toNat = vs.length := by
    rw [storeValues_rcount, BitVec.toNat_ofNat, Nat.mod_eq_of_lt hlt]
  exact { h with
    memory := storeValues_wf h.memory vs
    rcount := hrcount ▸ hvs
    rval := hrcount ▸ storeValues_filled vs s }

theorem dropValues_inv {s : State} (h : s.Inv) : (dropValues s).Inv :=
  { h with
    memory := dropValues_wf h.memory
    rcount := Nat.zero_le _
    rval := dropValues_filled s }

@[simp] theorem empty_read (b : Buffer) (i : Nat) : Memory.empty.read b i = none := by
  cases b <;> rfl

/-- R230: the state after the reset input is legal, whatever the state before, once the capacity is. -/
theorem applyReset_inv {s : State} (h : s.cfg.Legal) : (applyReset s).Inv where
  config := h
  memory := empty_wf
  status := by simp [statusValues]
  ilen := Nat.zero_le _
  olen := Nat.zero_le _
  rcount := Nat.zero_le _
  ibuf _ _ := empty_read ..
  wdata _ _ := empty_read ..
  obuf i := by rw [applyReset_mem, empty_read]; simp
  rval i := by rw [applyReset_mem, empty_read]; simp

/-! ## The legal states: each end of a command keeps them -/

theorem finish_inv {s : State} (h : s.Inv) (k : Result) : (finish k s).Inv :=
  setStatus_inv h (by cases k <;> decide)

theorem raise_inv {s : State} (h : s.Inv) (family : Family) {e : ErrorKind} (he : errorStatus e ∈ statusValues) :
    (raise family e s).Inv := by
  cases family with
  | plain => exact setStatus_inv h he
  | build => exact setStatus_inv (dropFrame_inv h) he
  | parse => exact setStatus_inv (dropValues_inv h) he

theorem emit_inv {s : State} (h : s.Inv) {body : List Byte} (hbody : body.length + 2 ≤ Config.obufCap) :
    (emit body s).Inv :=
  finish_inv (setCrc_inv (storeFrame_inv h (by simpa using hbody)) _) _

theorem Effect.inv {s t : State} {k : Kind} (h : Effect s k t) (hs : s.Inv) : t.Inv := by
  cases h with
  | nothing => exact hs
  | crc c => exact finish_inv (setCrc_inv hs c) _
  | frame dev fc reg p hdev hfc hlen => exact emit_inv hs (requestBody_length hlen)
  | buildFailed => exact raise_inv hs _ (by decide)
  | badResponse => exact raise_inv hs _ (by decide)
  | badField body => exact raise_inv (setCrc_inv hs _) _ (by decide)
  | badCrc body => exact raise_inv (setCrc_inv hs _) _ (by decide)
  | values body hbody vs hlen =>
    refine finish_inv (storeValues_inv (setCrc_inv hs _) ?_) _
    have hilen := hs.ilen
    simp only [setCrc_cfg, Config.rvalCap]
    omega
  | success body => exact finish_inv (dropValues_inv (setCrc_inv hs _)) _

theorem command_inv {w : Word} {s t : State} (hs : s.Inv) (h : command w s = .next t) : t.Inv := by
  rcases command_next h with ⟨i, -, hi⟩ | ⟨r, -, rfl⟩
  · exact (exec_effect hi).inv (latchCmd_inv hs w)
  · exact raise_inv (latchCmd_inv hs w) _ (by decide)

theorem act_inv {e : Event} {s t : State} (hs : s.Inv) (h : act e s = .next t) : t.Inv := by
  rcases act_next h with ⟨w, -, hw⟩ | ⟨v, hv, hcap, -, rfl⟩ | ⟨v, -, -, rfl⟩ | ⟨i, v, hi, -, -, rfl⟩ |
    ⟨i, v, hi, -, -, rfl⟩ | ⟨a, r, -, rfl⟩ | ⟨-, rfl⟩
  · exact command_inv hs hw
  · exact setIlen_inv hs hv hcap
  · exact setWcount_inv hs _
  · exact setIbuf_inv hs hi _
  · exact setWdata_inv hs hi _
  · exact giveReply_inv hs r
  · exact applyReset_inv hs.config

/-- Settles O41: every named write and every end of a command keeps the legal states, so every action does. -/
theorem everyStepKeepsTheLegalStates : Obligations.EveryStepKeepsTheLegalStates := by
  intro s t hs h
  rcases step_next h with ⟨-, rfl⟩ | ⟨e, -, he⟩
  · exact hs
  · exact act_inv (advancePc_inv hs) he

/-! ## The frame in OBUF (R132) -/

/-- The invariant speaks of OLEN and OBUF only. -/
theorem frameInv_congr {s t : State} (holen : t.olen = s.olen) (hobuf : t.mem.obuf = s.mem.obuf) (h : s.FrameInv) :
    t.FrameInv := by
  rwa [State.FrameInv, holen, hobuf]

/-- A body that starts with a legal device address and function code is emitted as a whole frame. -/
theorem emit_frameInv {dev fc : Byte} {body : List Byte} (hdev : dev ≤ Config.maxDevice)
    (hfc : fc = 0x03 ∨ fc = 0x06 ∨ fc = 0x10) (hlen : (dev :: fc :: body).length + 2 ≤ Config.obufCap) (s : State) :
    (emit (dev :: fc :: body) s).FrameInv := by
  refine .inr ⟨_, ?_, dev, fc, body, rfl, hdev, hfc⟩
  rw [(emit_holdsFrame hlen s).1]
  exact readCells_store _ _

theorem raise_frameInv {s : State} (h : s.FrameInv) (family : Family) (e : ErrorKind) :
    (raise family e s).FrameInv := by
  cases family with
  | plain => exact frameInv_congr rfl rfl h
  | build => exact .inl rfl
  | parse => exact frameInv_congr rfl rfl h

theorem Effect.frameInv {s t : State} {k : Kind} (h : Effect s k t) (hs : s.FrameInv) : t.FrameInv := by
  cases h with
  | frame dev fc reg p hdev hfc hlen =>
    exact emit_frameInv hdev hfc (requestBody_length hlen) s
  | buildFailed => exact raise_frameInv hs _ _
  | nothing | crc | badResponse | badField | badCrc | values | success => exact frameInv_congr rfl rfl hs

theorem command_frameInv {w : Word} {s t : State} (hs : s.FrameInv) (h : command w s = .next t) : t.FrameInv := by
  have hlatch : (latchCmd w s).FrameInv := frameInv_congr rfl rfl hs
  rcases command_next h with ⟨i, -, hi⟩ | ⟨r, -, rfl⟩
  · exact (exec_effect hi).frameInv hlatch
  · exact raise_frameInv hlatch _ _

theorem act_frameInv {e : Event} {s t : State} (hs : s.FrameInv) (h : act e s = .next t) : t.FrameInv := by
  rcases act_next h with ⟨w, -, hw⟩ | ⟨v, -, -, -, rfl⟩ | ⟨v, -, -, rfl⟩ | ⟨i, v, -, -, -, rfl⟩ | ⟨i, v, -, -, -, rfl⟩ |
    ⟨a, r, -, rfl⟩ | ⟨-, rfl⟩
  · exact command_frameInv hs hw
  · exact frameInv_congr rfl rfl hs
  · exact frameInv_congr rfl rfl hs
  · exact frameInv_congr rfl rfl hs
  · exact frameInv_congr rfl rfl hs
  · exact frameInv_congr rfl rfl hs
  · exact .inl rfl

/-- Settles O42: only a BUILD and the reset write OBUF or OLEN, and each leaves no frame or a whole one. -/
theorem everyStepKeepsTheOutputAWholeFrame : Obligations.EveryStepKeepsTheOutputAWholeFrame := by
  intro s t hs h
  rcases step_next h with ⟨-, rfl⟩ | ⟨e, -, he⟩
  · exact hs
  · exact act_frameInv (s := advancePc s) (frameInv_congr rfl rfl hs) he

/-! ## Reset (R38) -/

/-- Settles O39: the registers by definition, the buffers because the reset memory is empty. -/
theorem resetStateHoldsTheResetValues : Obligations.ResetStateHoldsTheResetValues :=
  ⟨rfl, rfl, rfl, rfl, rfl, rfl, rfl, empty_read⟩

/-- Settles O40: the reset state is what the reset input leaves of it. -/
theorem invariantsHoldAtReset : Obligations.InvariantsHoldAtReset :=
  ⟨applyReset_inv (s := State.reset) (by decide), .inl rfl⟩

end Sys2Proof.Machine
end

section
/-! PROOFS. The statements about the host interface and the buffers (spec/20_memory.md): what the host accesses do, which
actions are refused, on what an action faults, and that a command reads no element at or above its length. -/

namespace Sys2Proof.Machine

/-! ## The accesses that are no violation (R51) -/

theorem access_writeReg_cmd (w : Word) (s : State) : access (.writeReg .cmd w.toNat) s = command w s := by
  rw [access, hostWriteReg, if_pos w.isLt, BitVec.ofNat_toNat, BitVec.setWidth_eq]

theorem access_writeReg_ilen {s : State} {v : Nat} (hv : v < 2 ^ 16) (hcap : v ≤ s.cfg.ibufCap) :
    access (.writeReg .ilen v) s = .next (setIlen (BitVec.ofNat 16 v) s) :=
  if_pos ⟨hv, hcap⟩

theorem access_writeReg_wcount {v : Nat} (hv : v < 2 ^ 8) (s : State) :
    access (.writeReg .wcount v) s = .next (setWcount (BitVec.ofNat 8 v) s) :=
  if_pos hv

theorem access_writeBuf_ibuf {s : State} {i v : Nat} (hi : i < s.cfg.ibufCap) (hv : v < 2 ^ 8) :
    access (.writeBuf .ibuf i v) s = .next (setIbuf i (BitVec.ofNat 8 v) s) :=
  if_pos ⟨hi, hv⟩

theorem access_writeBuf_wdata {i v : Nat} (hi : i < Config.wdataCap) (hv : v < 2 ^ 16) (s : State) :
    access (.writeBuf .wdata i v) s = .next (setWdata i (BitVec.ofNat 16 v) s) :=
  if_pos ⟨hi, hv⟩

/-- R52: a buffer read is a violation exactly outside the buffer. -/
theorem isHostViolation_readBuf_iff (cfg : Config) (b : Buffer) (i : Nat) :
    IsHostViolation cfg (.readBuf b i) ↔ bufferCap cfg b ≤ i := by
  cases b <;> exact Iff.rfl

theorem access_readBuf_of_some {s : State} {b : Buffer} {i : Nat} {r : Reply} (hi : i < bufferCap s.cfg b)
    (hread : s.mem.read b i = some r) : access (.readBuf b i) s = .next (giveReply r s) := by
  rw [access, hostReadBuf, if_pos hi, hread]

theorem access_readBuf_of_none {s : State} {b : Buffer} {i : Nat} (hi : i < bufferCap s.cfg b)
    (hread : s.mem.read b i = none) : access (.readBuf b i) s = .fault (.unwrittenRead b i) := by
  rw [access, hostReadBuf, if_pos hi, hread]

/-- R32, R51: a write of IBUF changes what host reads find at its own index only. -/
theorem setIbuf_read_other (v : Byte) (s : State) {b : Buffer} {i k : Nat} (h : b ≠ .ibuf ∨ k ≠ i) :
    (setIbuf i v s).mem.read b k = s.mem.read b k := by
  cases b with
  | ibuf => simp [readCell_writeCell_other _ _ (h.resolve_left (absurd rfl))]
  | wdata | obuf | rval => rfl

/-- R33, R51: a write of WDATA changes what host reads find at its own index only. -/
theorem setWdata_read_other (v : Half) (s : State) {b : Buffer} {i k : Nat} (h : b ≠ .wdata ∨ k ≠ i) :
    (setWdata i v s).mem.read b k = s.mem.read b k := by
  cases b with
  | wdata => simp [readCell_writeCell_other _ _ (h.resolve_left (absurd rfl))]
  | ibuf | obuf | rval => rfl

/-- Settles O50: by the equation of each access. -/
theorem hostAccessesMoveOneElementOrRegister : Obligations.HostAccessesMoveOneElementOrRegister := by
  refine ⟨fun s w => access_writeReg_cmd w s, fun s v => access_writeReg_ilen,
    fun s v hv => access_writeReg_wcount hv s, fun s r => ⟨readReg s r, rfl, by cases r <;> rfl⟩, fun s b i v hlegal => ?_, fun s b i v hlegal => ?_⟩
  · cases b with
    | ibuf =>
      obtain ⟨hi, hv⟩ := not_or.mp hlegal
      exact ⟨_, access_writeBuf_ibuf (by omega) (by omega), by simp, fun b' k => setIbuf_read_other _ s, rfl⟩
    | wdata =>
      obtain ⟨hi, hv⟩ := not_or.mp hlegal
      exact ⟨_, access_writeBuf_wdata (Nat.lt_of_not_le hi) (by omega) s, by simp,
        fun b' k => setWdata_read_other _ s, rfl⟩
    | obuf | rval => exact absurd trivial hlegal
  · rw [isHostViolation_readBuf_iff, Nat.not_le] at hlegal
    exact access_readBuf_of_some hlegal

/-! ## Refusals (R52, R65, R210) -/

theorem exec_buildRdDef (dev : Byte) (reg : Half) (s : State) :
    exec (.buildRdDef dev reg) s = buildWith dev 0x03 reg defaultReadPayload s := rfl

theorem exec_buildWs (dev : Byte) (reg value : Half) (s : State) :
    exec (.buildWs dev reg value) s = buildWith dev 0x06 reg (singlePayload value) s := rfl

theorem buildWith_ne_refused (dev fc : Byte) (reg : Half) (payload : Payload) (s : State) (r : Refusal) :
    buildWith dev fc reg payload s ≠ .refused r := by
  unfold buildWith
  split
  · nofun
  · cases payload <;> nofun

theorem checkCrc_ne_refused (n : Nat) (decodeFrame : List Byte → State → State) (s : State) (r : Refusal) :
    checkCrc n decodeFrame s ≠ .refused r := by
  unfold checkCrc
  split
  · nofun
  · split
    · nofun
    · nofun
    · split <;> nofun

theorem parseWith_ne_refused (fc : Byte) (decodeFrame : List Byte → State → State) (s : State) (r : Refusal) :
    parseWith fc decodeFrame s ≠ .refused r := by
  unfold parseWith
  split
  · nofun
  · split
    · nofun
    · split
      · exact checkCrc_ne_refused _ _ _ _
      · nofun

theorem execCrcBlock_ne_refused (s : State) (r : Refusal) : execCrcBlock s ≠ .refused r := by
  unfold execCrcBlock
  split <;> nofun

/-- R210: every instruction has a meaning. -/
theorem exec_ne_refused (i : Instr) (s : State) (r : Refusal) : exec i s ≠ .refused r := by
  cases i with
  | nop | crcInit | crcUpdate => nofun
  | crcBlock => exact execCrcBlock_ne_refused s r
  | buildRd | buildWm | buildWmImp => exact buildWith_ne_refused _ _ _ _ s r
  | buildRdDef => rw [exec_buildRdDef]; exact buildWith_ne_refused _ _ _ _ s r
  | buildWs => rw [exec_buildWs]; exact buildWith_ne_refused _ _ _ _ s r
  | parseRd | parseWs | parseWm => exact parseWith_ne_refused _ _ s r

theorem command_ne_refused (w : Word) (s : State) (r : Refusal) : command w s ≠ .refused r := by
  cases hd : decode w with
  | ok i => rw [command_of_ok hd]; exact exec_ne_refused i _ r
  | error e => rw [command_of_error hd]; nofun

theorem next_ne_refused (t : State) (r : Refusal) : (.next t : Host.Outcome State Fault Refusal) ≠ .refused r := nofun

/-- The form of every host access: what it does under its condition is no refusal, and otherwise it is a violation. -/
theorem guarded_eq_refused_iff {p : Prop} [Decidable p] {o : Host.Outcome State Fault Refusal} {r : Refusal}
    (ho : o ≠ .refused r) :
    (if p then o else .refused .hostViolation) = .refused r ↔ r = .hostViolation ∧ ¬p := by
  by_cases hp : p <;> simp [hp, ho, eq_comm]

theorem hostReadBuf_refused_iff (b : Buffer) (i : Nat) (s : State) (r : Refusal) :
    hostReadBuf b i s = .refused r ↔ r = .hostViolation ∧ IsHostViolation s.cfg (.readBuf b i) := by
  rw [isHostViolation_readBuf_iff, hostReadBuf, guarded_eq_refused_iff, Nat.not_lt]
  split <;> nofun

theorem hostWriteBuf_refused_iff (b : Buffer) (i v : Nat) (s : State) (r : Refusal) :
    hostWriteBuf b i v s = .refused r ↔ r = .hostViolation ∧ IsHostViolation s.cfg (.writeBuf b i v) := by
  cases b with
  | ibuf | wdata =>
    rw [hostWriteBuf, guarded_eq_refused_iff (next_ne_refused _ r), not_and_or, Nat.not_lt, Nat.not_lt]
    rfl
  | obuf | rval => simp [hostWriteBuf, IsHostViolation, eq_comm]

theorem hostWriteReg_refused_iff (g : Reg) (v : Nat) (s : State) (r : Refusal) :
    hostWriteReg g v s = .refused r ↔ r = .hostViolation ∧ IsHostViolation s.cfg (.writeReg g v) := by
  cases g with
  | cmd => rw [hostWriteReg, guarded_eq_refused_iff (command_ne_refused _ s r), Nat.not_lt]; rfl
  | ilen =>
    rw [hostWriteReg, guarded_eq_refused_iff (next_ne_refused _ r), not_and_or, Nat.not_lt, Nat.not_le]
    rfl
  | wcount => rw [hostWriteReg, guarded_eq_refused_iff (next_ne_refused _ r), Nat.not_lt]; rfl
  | status | crc | olen | rcount => simp [hostWriteReg, IsHostViolation, eq_comm]

/-- R52: a host access is refused as HostViolation if it is on the rule's list, and in no other case. -/
theorem access_refused_iff (a : HostAccess) (s : State) (r : Refusal) :
    access a s = .refused r ↔ r = .hostViolation ∧ IsHostViolation s.cfg a := by
  cases a with
  | writeReg g v => exact hostWriteReg_refused_iff ..
  | readReg g => simp [access, hostReadReg, IsHostViolation]
  | writeBuf b i v => exact hostWriteBuf_refused_iff ..
  | readBuf b i => exact hostReadBuf_refused_iff ..

/-- Settles O49: by `access_refused_iff` for the host's accesses; a second agent's is always refused, a reset never. -/
theorem exactlyTheListedActionsAreRefused : Obligations.ExactlyTheListedActionsAreRefused := by
  refine ⟨fun e s r => ?_, command_ne_refused⟩
  cases e with
  | access a => simp [act, access_refused_iff]
  | reset => simp [act]
  | secondAgent a => simp [act, eq_comm]

/-! ## Faults (R53) -/

/-- R53: the faults of a command that runs in `s`: an element without a value below the length of its buffer. -/
inductive InputFault (s : State) : Fault → Prop where
  | ibuf {i : Nat} (hlt : i < s.ilen.toNat) (hnone : readCell s.mem.ibuf i = none) :
      InputFault s (.unwrittenRead .ibuf i)
  | wdata {i : Nat} (hlt : i < s.wcount.toNat) (hnone : readCell s.mem.wdata i = none) :
      InputFault s (.unwrittenRead .wdata i)

theorem readCells_error_unwritten {width : Nat} {c : Cells width} {n j : Nat} (h : readCells c 0 n = .error j) :
    j < n ∧ readCell c j = none := by
  obtain ⟨-, hlt, hnone, -⟩ := (readCells_eq_error_iff _ _ _ _).mp h
  exact ⟨by omega, hnone⟩

theorem readPayload_ne_unwritten (count : Half) (i : Nat) : readPayload count ≠ .unwritten i := by
  unfold readPayload
  split <;> nofun

/-- R128, R129: a value list that is not all there names an element of WDATA[0..WCOUNT). -/
theorem listPayload_unwritten {count : Option Half} {s : State} {i : Nat} (h : listPayload count s = .unwritten i) :
    i < s.wcount.toNat ∧ readCell s.mem.wdata i = none := by
  unfold listPayload at h
  split_ifs at h
  split at h
  · cases h
    exact readCells_error_unwritten ‹_›
  · cases h

/-- R120: a BUILD faults only on its payload. -/
theorem buildWith_fault {dev fc : Byte} {reg : Half} {payload : Payload} {s : State} {f : Fault}
    (h : buildWith dev fc reg payload s = .fault f) :
    ∃ i, payload = .unwritten i ∧ f = .unwrittenRead .wdata i := by
  unfold buildWith at h
  split at h
  · cases h
  · cases payload with
    | invalid => cases h
    | unwritten i => cases h; exact ⟨i, rfl, rfl⟩
    | bytes p => cases h

theorem buildWith_listPayload_fault {dev fc : Byte} {reg : Half} {count : Option Half} {s : State} {f : Fault}
    (h : buildWith dev fc reg (listPayload count s) s = .fault f) : InputFault s f := by
  obtain ⟨i, hi, rfl⟩ := buildWith_fault h
  obtain ⟨hlt, hnone⟩ := listPayload_unwritten hi
  exact .wdata hlt hnone

/-- R150 check 3 reads the bytes before the last two, then these. -/
theorem checkCrc_fault {decodeFrame : List Byte → State → State} {s : State} {f : Fault} (hn : 2 ≤ s.ilen.toNat)
    (h : checkCrc s.ilen.toNat decodeFrame s = .fault f) : InputFault s f := by
  unfold checkCrc at h
  split at h
  · rename_i i hi
    cases h
    obtain ⟨hlt, hnone⟩ := readCells_error_unwritten hi
    exact .ibuf (by omega) hnone
  · split at h
    · cases h
      exact .ibuf (by omega) ‹_›
    · cases h
      exact .ibuf (by omega) ‹_›
    · split at h <;> cases h

theorem parseWith_fault {fc : Byte} {decodeFrame : List Byte → State → State} {s : State} {f : Fault}
    (h : parseWith fc decodeFrame s = .fault f) : InputFault s f := by
  unfold parseWith at h
  split at h
  · cases h
  · split at h
    · cases h
      exact .ibuf (by omega) ‹_›
    · split at h
      · exact checkCrc_fault (by omega) h
      · cases h

theorem execCrcBlock_fault {s : State} {f : Fault} (h : execCrcBlock s = .fault f) : InputFault s f := by
  unfold execCrcBlock at h
  split at h
  · rename_i i hi
    cases h
    obtain ⟨hlt, hnone⟩ := readCells_error_unwritten hi
    exact .ibuf hlt hnone
  · cases h

/-- R53, R129, R155: an instruction faults only below the length of the buffer it reads. -/
theorem exec_fault {i : Instr} {s : State} {f : Fault} (h : exec i s = .fault f) : InputFault s f := by
  cases i with
  | nop | crcInit | crcUpdate => cases h
  | crcBlock => exact execCrcBlock_fault h
  | buildRd =>
    obtain ⟨i, hi, -⟩ := buildWith_fault h
    exact absurd hi (readPayload_ne_unwritten _ i)
  | buildRdDef =>
    rw [exec_buildRdDef] at h
    obtain ⟨i, hi, -⟩ := buildWith_fault h
    cases hi
  | buildWs =>
    rw [exec_buildWs] at h
    obtain ⟨i, hi, -⟩ := buildWith_fault h
    cases hi
  | buildWm | buildWmImp => exact buildWith_listPayload_fault h
  | parseRd | parseWs | parseWm => exact parseWith_fault h

theorem command_fault {w : Word} {s : State} {f : Fault} (h : command w s = .fault f) : InputFault s f := by
  cases hd : decode w with
  | ok i =>
    rw [command_of_ok hd] at h
    cases exec_fault h with
    | ibuf hlt hnone => exact .ibuf hlt hnone
    | wdata hlt hnone => exact .wdata hlt hnone
  | error r =>
    rw [command_of_error hd] at h
    cases h

theorem hostWriteReg_fault {g : Reg} {v : Nat} {s : State} {f : Fault} (h : hostWriteReg g v s = .fault f) :
    ∃ w : Word, g = .cmd ∧ v = w.toNat ∧ command w s = .fault f := by
  cases g with
  | cmd =>
    simp only [hostWriteReg] at h
    split at h
    · exact ⟨BitVec.ofNat 64 v, rfl, by rw [BitVec.toNat_ofNat, Nat.mod_eq_of_lt ‹_›], h⟩
    · cases h
  | ilen | wcount => simp only [hostWriteReg] at h; split at h <;> cases h
  | status | crc | olen | rcount => cases h

theorem hostWriteBuf_ne_fault (b : Buffer) (i v : Nat) (s : State) (f : Fault) : hostWriteBuf b i v s ≠ .fault f := by
  cases b with
  | ibuf | wdata => simp only [hostWriteBuf]; split <;> nofun
  | obuf | rval => nofun

theorem hostReadBuf_fault {b : Buffer} {i : Nat} {s : State} {f : Fault} (h : hostReadBuf b i s = .fault f) :
    f = .unwrittenRead b i ∧ s.mem.read b i = none := by
  unfold hostReadBuf at h
  split at h
  · split at h
    · cases h
    · cases h
      exact ⟨rfl, ‹_›⟩
  · cases h

/-- R53: an action faults as a host read of an element that holds no value, or as the command it writes. -/
theorem act_fault {e : Event} {s : State} {f : Fault} (h : act e s = .fault f) :
    (∃ b i, e = .access (.readBuf b i) ∧ f = .unwrittenRead b i ∧ s.mem.read b i = none) ∨
      (∃ w : Word, e = .access (.writeReg .cmd w.toNat) ∧ command w s = .fault f) := by
  cases e with
  | reset | secondAgent => cases h
  | access a =>
    cases a with
    | writeReg g v =>
      obtain ⟨w, rfl, rfl, hw⟩ := hostWriteReg_fault h
      exact .inr ⟨w, rfl, hw⟩
    | readReg g => cases h
    | writeBuf b i v => exact absurd h (hostWriteBuf_ne_fault b i v s f)
    | readBuf b i =>
      obtain ⟨hf, hnone⟩ := hostReadBuf_fault h
      exact .inl ⟨b, i, rfl, hf, hnone⟩

/-- Settles O51: an action faults as a host read or as a command (`act_fault`), a command only on its input
(`command_fault`). -/
theorem faultsAreReadsOfElementsThatHoldNoValue : Obligations.FaultsAreReadsOfElementsThatHoldNoValue := by
  refine ⟨fun e s b i h => ?_, fun s b i hlegal hnone => ?_⟩
  · rcases act_fault h with ⟨b', i', rfl, hf, hnone⟩ | ⟨w, rfl, hw⟩
    · cases hf
      exact ⟨hnone, .inl rfl⟩
    · cases command_fault hw with
      | ibuf hlt hnone => exact ⟨by simp [hnone], .inr ⟨w, rfl, .inl ⟨rfl, hlt⟩⟩⟩
      | wdata hlt hnone => exact ⟨by simp [hnone], .inr ⟨w, rfl, .inr ⟨rfl, hlt⟩⟩⟩
  · rw [isHostViolation_readBuf_iff, Nat.not_le] at hlegal
    exact access_readBuf_of_none hlegal hnone

/-! ## Commands read only below their lengths (R129, R155) -/

/-- The state with the elements of IBUF and WDATA replaced. -/
def replaceInputs (c : Cells 8) (d : Cells 16) (s : State) : State :=
  { s with mem := { s.mem with ibuf := c, wdata := d } }

/-- An outcome with `g` applied to its next state, if it has one. -/
def mapNext (g : State → State) : Host.Outcome State Fault Refusal → Host.Outcome State Fault Refusal
  | .next t => .next (g t)
  | .fault f => .fault f
  | .refused r => .refused r

section
variable (c : Cells 8) (d : Cells 16)

@[simp] theorem replaceInputs_ilen (s : State) : (replaceInputs c d s).ilen = s.ilen := rfl
@[simp] theorem replaceInputs_wcount (s : State) : (replaceInputs c d s).wcount = s.wcount := rfl
@[simp] theorem replaceInputs_mem_ibuf (s : State) : (replaceInputs c d s).mem.ibuf = c := rfl
@[simp] theorem replaceInputs_mem_wdata (s : State) : (replaceInputs c d s).mem.wdata = d := rfl

theorem raise_replaceInputs (family : Family) (e : ErrorKind) (s : State) :
    raise family e (replaceInputs c d s) = replaceInputs c d (raise family e s) := by
  cases family <;> rfl

theorem decodeReadResponse_replaceInputs (body : List Byte) (s : State) :
    decodeReadResponse body (replaceInputs c d s) = replaceInputs c d (decodeReadResponse body s) := by
  unfold decodeReadResponse
  split <;> rfl

theorem decodeWriteResponse_replaceInputs (body : List Byte) (s : State) :
    decodeWriteResponse body (replaceInputs c d s) = replaceInputs c d (decodeWriteResponse body s) := rfl

/-- R120: with its payload given, a BUILD reads no buffer. -/
theorem buildWith_replaceInputs (dev fc : Byte) (reg : Half) (payload : Payload) (s : State) :
    buildWith dev fc reg payload (replaceInputs c d s) =
      mapNext (replaceInputs c d) (buildWith dev fc reg payload s) := by
  unfold buildWith
  split
  · rfl
  · cases payload <;> rfl

variable {c d} {s : State}

/-- R129: the value list lies below WCOUNT. -/
theorem listPayload_replaceInputs (hd : ∀ k, k < s.wcount.toNat → readCell d k = readCell s.mem.wdata k)
    (count : Option Half) : listPayload count (replaceInputs c d s) = listPayload count s := by
  have hread : readCells (replaceInputs c d s).mem.wdata 0 (replaceInputs c d s).wcount.toNat =
      readCells s.mem.wdata 0 s.wcount.toNat :=
    readCells_congr fun k _ hk => hd k (by simpa using hk)
  unfold listPayload
  rw [hread]
  rfl

section
variable (hc : ∀ k, k < s.ilen.toNat → readCell c k = readCell s.mem.ibuf k)
include hc

theorem execCrcBlock_replaceInputs :
    execCrcBlock (replaceInputs c d s) = mapNext (replaceInputs c d) (execCrcBlock s) := by
  have hread : readCells c 0 s.ilen.toNat = readCells s.mem.ibuf 0 s.ilen.toNat :=
    readCells_congr fun k _ hk => hc k (by omega)
  unfold execCrcBlock
  rw [replaceInputs_ilen, replaceInputs_mem_ibuf, hread]
  split <;> rfl

variable {decodeFrame : List Byte → State → State}
  (hdecode : ∀ body s, decodeFrame body (replaceInputs c d s) = replaceInputs c d (decodeFrame body s))
include hdecode

theorem checkCrc_replaceInputs (hn : 2 ≤ s.ilen.toNat) :
    checkCrc s.ilen.toNat decodeFrame (replaceInputs c d s) =
      mapNext (replaceInputs c d) (checkCrc s.ilen.toNat decodeFrame s) := by
  have hbody : readCells c 0 (s.ilen.toNat - 2) = readCells s.mem.ibuf 0 (s.ilen.toNat - 2) :=
    readCells_congr fun k _ hk => hc k (by omega)
  unfold checkCrc
  rw [replaceInputs_mem_ibuf, hbody, hc _ (by omega), hc _ (by omega)]
  split
  · rfl
  · split
    · rfl
    · rfl
    · split
      · exact congrArg Host.Outcome.next (hdecode _ (setCrc _ s))
      · rfl

/-- R155: a PARSE reads the echo only past the length check, and the rest of the frame only below ILEN. -/
theorem parseWith_replaceInputs (fc : Byte) :
    parseWith fc decodeFrame (replaceInputs c d s) = mapNext (replaceInputs c d) (parseWith fc decodeFrame s) := by
  unfold parseWith
  rw [replaceInputs_ilen, replaceInputs_mem_ibuf]
  split
  · rfl
  · rw [hc 1 (by omega)]
    split
    · rfl
    · split
      · exact checkCrc_replaceInputs hc hdecode (by omega)
      · rfl

end

/-- The inputs above the lengths neither decide an instruction's outcome nor are changed by it. -/
theorem exec_replaceInputs (hc : ∀ k, k < s.ilen.toNat → readCell c k = readCell s.mem.ibuf k)
    (hd : ∀ k, k < s.wcount.toNat → readCell d k = readCell s.mem.wdata k) (i : Instr) :
    exec i (replaceInputs c d s) = mapNext (replaceInputs c d) (exec i s) := by
  cases i with
  | nop | crcInit | crcUpdate => rfl
  | crcBlock => exact execCrcBlock_replaceInputs hc
  | buildRd | buildRdDef | buildWs | buildWm | buildWmImp =>
    simp only [exec, execBuildRd, execBuildRdDef, execBuildWs, execBuildWm, execBuildWmImp,
      listPayload_replaceInputs hd, buildWith_replaceInputs]
  | parseRd => exact parseWith_replaceInputs hc (decodeReadResponse_replaceInputs c d) _
  | parseWs | parseWm => exact parseWith_replaceInputs hc (decodeWriteResponse_replaceInputs c d) _

end

/-- Settles O48: every read of a command is below ILEN or WCOUNT (`exec_replaceInputs`). -/
theorem commandsReadOnlyBelowTheirLengths : Obligations.CommandsReadOnlyBelowTheirLengths := by
  intro i s c d hc hd
  refine (exec_replaceInputs hc hd i).trans ?_
  cases exec i s <;> rfl

end Sys2Proof.Machine
end

section
/-! PROOFS. The statements about the encoding (spec/30_encoding.md): the place values of the formats, the words of each
form, decoding and encoding as inverses, the opcode table, the words and operands that complete with InvalidCommand,
and the loading of a command's inputs. -/

namespace Sys2Proof.Machine

/-! ## Place values (R71, R88) -/

/-- A field placed above the bits of `low` adds its place value. -/
theorem toNat_or_field {n : Nat} {low : Word} {x : BitVec n} {k : Nat} (hlow : low.toNat < 2 ^ k) (hk : k + n ≤ 64) :
    (low ||| x.setWidth 64 <<< k).toNat = low.toNat + x.toNat * 2 ^ k := by
  have hx : x.toNat < 2 ^ 64 := Nat.lt_of_lt_of_le x.isLt (Nat.pow_le_pow_right (by decide) (by omega))
  have hxk : x.toNat <<< k < 2 ^ 64 :=
    Nat.lt_of_lt_of_le (Nat.shiftLeft_lt x.isLt) (Nat.pow_le_pow_right (by decide) (by omega))
  rw [BitVec.toNat_or, BitVec.toNat_shiftLeft, BitVec.toNat_setWidth, Nat.mod_eq_of_lt hx, Nat.mod_eq_of_lt hxk,
    Nat.or_comm, ← Nat.shiftLeft_add_eq_or_of_lt hlow, Nat.shiftLeft_eq, Nat.add_comm]

theorem or_field_lt {n : Nat} {low : Word} {x : BitVec n} {k : Nat} (hlow : low.toNat < 2 ^ k) (hk : k + n ≤ 64) :
    (low ||| x.setWidth 64 <<< k).toNat < 2 ^ (k + n) := by
  rw [toNat_or_field hlow hk, Nat.pow_add]
  nlinarith [x.isLt]

theorem toNat_encodeN (op : Byte) : (encodeN op).toNat = op.toNat := BitVec.toNat_setWidth_of_le (by decide)

theorem toNat_encodeByte (op b : Byte) : (encodeByte op b).toNat = op.toNat + b.toNat * 2 ^ 8 := by
  have hop : (op.setWidth 64).toNat = op.toNat := toNat_encodeN op
  rw [encodeByte, toNat_or_field (hop ▸ op.isLt) (by decide), hop]

theorem toNat_encodeB (fc dev : Byte) (cp : Bool) (reg arg : Half) :
    (encodeB fc dev cp reg arg).toNat = 0x10 + fc.toNat * 2 ^ 8 + dev.toNat * 2 ^ 16 + cp.toNat * 2 ^ 24 +
      reg.toNat * 2 ^ 32 + arg.toNat * 2 ^ 48 := by
  have hop : (0x10 : Word).toNat < 2 ^ 8 := by decide
  have hfc := or_field_lt (x := fc) hop (by decide)
  have hdev := or_field_lt (x := dev) hfc (by decide)
  have hcp := Nat.lt_trans (or_field_lt (x := BitVec.ofBool cp) hdev (by decide)) (show _ < 2 ^ 32 by decide)
  have hreg := or_field_lt (x := reg) hcp (by decide)
  rw [encodeB, toNat_or_field hreg (by decide), toNat_or_field hcp (by decide), toNat_or_field hdev (by decide),
    toNat_or_field hfc (by decide), toNat_or_field hop (by decide), BitVec.toNat_ofBool]
  rfl

/-- Settles O4: each word is one of the three formats, whose numbers are the sums of their fields' place values. -/
theorem encodedWordsHaveTheFieldsPlaceValues : Obligations.EncodedWordsHaveTheFieldsPlaceValues := by
  refine ⟨rfl, rfl, rfl, toNat_encodeByte 0x02, fun dev reg count => ?_, fun dev reg => ?_, fun dev reg value => ?_,
    fun dev reg count => ?_, fun dev reg => ?_, rfl, rfl, rfl⟩
  all_goals simp [encode, toNat_encodeB]

/-! ## The words of each format (R71, R75) -/

theorem eq_encodeN_iff {w : Word} {op : Byte} : w = encodeN op ↔ opField w = op ∧ w &&& maskN = 0 := by
  rw [and_maskN]
  simp only [← BitVec.toNat_inj, toNat_encodeN, opField, BitVec.extractLsb'_toNat, Nat.shiftRight_eq_div_pow,
    BitVec.reduceToNat]
  omega

theorem eq_encodeByte_iff {w : Word} {op b : Byte} :
    w = encodeByte op b ↔ opField w = op ∧ byteField w = b ∧ w &&& maskU = 0 := by
  rw [and_maskU]
  simp only [← BitVec.toNat_inj, toNat_encodeByte, opField, byteField, BitVec.extractLsb'_toNat,
    Nat.shiftRight_eq_div_pow, BitVec.reduceToNat]
  omega

theorem eq_encodeB_iff {w : Word} {fc dev : Byte} {cp : Bool} {reg arg : Half} :
    w = encodeB fc dev cp reg arg ↔ opField w = 0x10 ∧ fcField w = fc ∧ devField w = dev ∧
      w.extractLsb' 24 8 = BitVec.ofNat 8 cp.toNat ∧ regField w = reg ∧ argField w = arg := by
  have hcp := cp.toNat_lt
  simp only [← BitVec.toNat_inj, toNat_encodeB, opField, fcField, devField, regField, argField, BitVec.extractLsb'_toNat,
    Nat.shiftRight_eq_div_pow, BitVec.toNat_ofNat, BitVec.reduceToNat]
  omega

/-- Bits [31:24] of format B are CP and seven reserved bits above it. -/
theorem cpByte_eq_iff (w : Word) (cp : Bool) :
    w.extractLsb' 24 8 = BitVec.ofNat 8 cp.toNat ↔ cpField w = cp ∧ w.extractLsb' 25 7 = 0 := by
  have hcp : cpField w = decide (w.toNat / 2 ^ 24 % 2 = 1) := Nat.testBit_eq_decide_div_mod_eq
  rw [hcp]
  simp only [← BitVec.toNat_inj, BitVec.extractLsb'_toNat, Nat.shiftRight_eq_div_pow, BitVec.toNat_ofNat,
    BitVec.reduceToNat]
  cases cp with
  | false => simp only [decide_eq_false_iff_not, Bool.toNat_false]; omega
  | true => simp only [decide_eq_true_iff, Bool.toNat_true]; omega

/-- BUILD.RD and BUILD.WM: CP is set and ARG is an operand. -/
theorem eq_encodeB_counted_iff {w : Word} {fc dev : Byte} {reg arg : Half} :
    w = encodeB fc dev true reg arg ↔ opField w = 0x10 ∧ fcField w = fc ∧ cpField w = true ∧
      w &&& maskCounted = 0 ∧ devField w = dev ∧ regField w = reg ∧ argField w = arg := by
  rw [eq_encodeB_iff, cpByte_eq_iff, and_maskCounted]
  tauto

/-- BUILD.RD.DEF and BUILD.WM.IMP: CP is clear and ARG is reserved. -/
theorem eq_encodeB_uncounted_iff {w : Word} {fc dev : Byte} {reg : Half} :
    w = encodeB fc dev false reg 0 ↔ opField w = 0x10 ∧ fcField w = fc ∧ cpField w = false ∧
      w &&& maskUncounted = 0 ∧ devField w = dev ∧ regField w = reg := by
  rw [eq_encodeB_iff, cpByte_eq_iff, and_maskUncounted, argField]
  tauto

/-- BUILD.WS: CP is reserved and ARG is an operand. -/
theorem eq_encodeB_single_iff {w : Word} {fc dev : Byte} {reg arg : Half} :
    w = encodeB fc dev false reg arg ↔ opField w = 0x10 ∧ fcField w = fc ∧ w &&& maskWs = 0 ∧
      devField w = dev ∧ regField w = reg ∧ argField w = arg := by
  rw [eq_encodeB_iff, and_maskWs]
  exact ⟨fun ⟨hop, hfc, hdev, hcp, hrest⟩ => ⟨hop, hfc, hcp, hdev, hrest⟩,
    fun ⟨hop, hfc, hcp, hdev, hrest⟩ => ⟨hop, hfc, hdev, hcp, hrest⟩⟩

/-! ## The decoder, form by form (R72 to R74) -/

section
variable {w : Word}

theorem decode_form_nop (hop : opField w = 0x00) : decode w = unlessReserved .plain maskN w .nop := if_pos hop

theorem decode_form_crcInit (hop : opField w = 0x01) : decode w = unlessReserved .plain maskN w .crcInit := by
  simp [decode, hop]

theorem decode_form_crcUpdate (hop : opField w = 0x02) :
    decode w = unlessReserved .plain maskU w (.crcUpdate (byteField w)) := by
  simp [decode, hop]

theorem decode_form_crcBlock (hop : opField w = 0x03) : decode w = unlessReserved .plain maskN w .crcBlock := by
  simp [decode, hop]

theorem decode_build (hop : opField w = 0x10) : decode w = decodeBuild w := by
  simp [decode, hop]

theorem decode_parse (hop : opField w = 0x20) : decode w = decodeParse w := by
  simp [decode, hop]

theorem decode_form_buildRd (hop : opField w = 0x10) (hfc : fcField w = 0x03) (hcp : cpField w = true) :
    decode w = unlessReserved .build maskCounted w (.buildRd (devField w) (regField w) (argField w)) := by
  simp [decode_build hop, decodeBuild, hfc, hcp]

theorem decode_form_buildRdDef (hop : opField w = 0x10) (hfc : fcField w = 0x03) (hcp : cpField w = false) :
    decode w = unlessReserved .build maskUncounted w (.buildRdDef (devField w) (regField w)) := by
  simp [decode_build hop, decodeBuild, hfc, hcp]

theorem decode_form_buildWs (hop : opField w = 0x10) (hfc : fcField w = 0x06) :
    decode w = unlessReserved .build maskWs w (.buildWs (devField w) (regField w) (argField w)) := by
  simp [decode_build hop, decodeBuild, hfc]

theorem decode_form_buildWm (hop : opField w = 0x10) (hfc : fcField w = 0x10) (hcp : cpField w = true) :
    decode w = unlessReserved .build maskCounted w (.buildWm (devField w) (regField w) (argField w)) := by
  simp [decode_build hop, decodeBuild, hfc, hcp]

theorem decode_form_buildWmImp (hop : opField w = 0x10) (hfc : fcField w = 0x10) (hcp : cpField w = false) :
    decode w = unlessReserved .build maskUncounted w (.buildWmImp (devField w) (regField w)) := by
  simp [decode_build hop, decodeBuild, hfc, hcp]

theorem decode_form_parseRd (hop : opField w = 0x20) (hfc : fcField w = 0x03) :
    decode w = unlessReserved .parse maskP w .parseRd := by
  simp [decode_parse hop, decodeParse, hfc]

theorem decode_form_parseWs (hop : opField w = 0x20) (hfc : fcField w = 0x06) :
    decode w = unlessReserved .parse maskP w .parseWs := by
  simp [decode_parse hop, decodeParse, hfc]

theorem decode_form_parseWm (hop : opField w = 0x20) (hfc : fcField w = 0x10) :
    decode w = unlessReserved .parse maskP w .parseWm := by
  simp [decode_parse hop, decodeParse, hfc]

end

/-! ## Decoding and encoding are inverse -/

/-- The encoding of an instruction selects its form, has the form's reserved bits clear and holds its operands. -/
theorem decode_of_eq_encode (i : Instr) {w : Word} (h : w = encode i) : decode w = .ok i := by
  cases i with
  | nop =>
    obtain ⟨hop, hres⟩ := eq_encodeN_iff.mp h
    exact (decode_form_nop hop).trans (unlessReserved_ok hres)
  | crcInit =>
    obtain ⟨hop, hres⟩ := eq_encodeN_iff.mp h
    exact (decode_form_crcInit hop).trans (unlessReserved_ok hres)
  | crcUpdate b =>
    obtain ⟨hop, rfl, hres⟩ := eq_encodeByte_iff.mp h
    exact (decode_form_crcUpdate hop).trans (unlessReserved_ok hres)
  | crcBlock =>
    obtain ⟨hop, hres⟩ := eq_encodeN_iff.mp h
    exact (decode_form_crcBlock hop).trans (unlessReserved_ok hres)
  | buildRd dev reg count =>
    obtain ⟨hop, hfc, hcp, hres, rfl, rfl, rfl⟩ := eq_encodeB_counted_iff.mp h
    exact (decode_form_buildRd hop hfc hcp).trans (unlessReserved_ok hres)
  | buildRdDef dev reg =>
    obtain ⟨hop, hfc, hcp, hres, rfl, rfl⟩ := eq_encodeB_uncounted_iff.mp h
    exact (decode_form_buildRdDef hop hfc hcp).trans (unlessReserved_ok hres)
  | buildWs dev reg value =>
    obtain ⟨hop, hfc, hres, rfl, rfl, rfl⟩ := eq_encodeB_single_iff.mp h
    exact (decode_form_buildWs hop hfc).trans (unlessReserved_ok hres)
  | buildWm dev reg count =>
    obtain ⟨hop, hfc, hcp, hres, rfl, rfl, rfl⟩ := eq_encodeB_counted_iff.mp h
    exact (decode_form_buildWm hop hfc hcp).trans (unlessReserved_ok hres)
  | buildWmImp dev reg =>
    obtain ⟨hop, hfc, hcp, hres, rfl, rfl⟩ := eq_encodeB_uncounted_iff.mp h
    exact (decode_form_buildWmImp hop hfc hcp).trans (unlessReserved_ok hres)
  | parseRd =>
    obtain ⟨hop, hfc, hres⟩ := eq_encodeByte_iff.mp h
    exact (decode_form_parseRd hop hfc).trans (unlessReserved_ok hres)
  | parseWs =>
    obtain ⟨hop, hfc, hres⟩ := eq_encodeByte_iff.mp h
    exact (decode_form_parseWs hop hfc).trans (unlessReserved_ok hres)
  | parseWm =>
    obtain ⟨hop, hfc, hres⟩ := eq_encodeByte_iff.mp h
    exact (decode_form_parseWm hop hfc).trans (unlessReserved_ok hres)

/-- Settles O2: by `decode_of_eq_encode`. -/
theorem decodeOfEncodeIsTheInstruction : Obligations.DecodeOfEncodeIsTheInstruction :=
  fun i => decode_of_eq_encode i rfl

theorem eq_encode_of_decodeBuild {w : Word} {i : Instr} (hop : opField w = 0x10) (h : decodeBuild w = .ok i) :
    w = encode i := by
  unfold decodeBuild at h
  split_ifs at h with hfc hcp hfc hfc hcp <;> obtain ⟨hres, rfl⟩ := unlessReserved_eq_ok h
  · exact eq_encodeB_counted_iff.mpr ⟨hop, hfc, hcp, hres, rfl, rfl, rfl⟩
  · exact eq_encodeB_uncounted_iff.mpr ⟨hop, hfc, eq_false_of_ne_true hcp, hres, rfl, rfl⟩
  · exact eq_encodeB_single_iff.mpr ⟨hop, hfc, hres, rfl, rfl, rfl⟩
  · exact eq_encodeB_counted_iff.mpr ⟨hop, hfc, hcp, hres, rfl, rfl, rfl⟩
  · exact eq_encodeB_uncounted_iff.mpr ⟨hop, hfc, eq_false_of_ne_true hcp, hres, rfl, rfl⟩

theorem eq_encode_of_decodeParse {w : Word} {i : Instr} (hop : opField w = 0x20) (h : decodeParse w = .ok i) :
    w = encode i := by
  unfold decodeParse at h
  split_ifs at h with hfc hfc hfc <;> obtain ⟨hres, rfl⟩ := unlessReserved_eq_ok h <;>
    exact eq_encodeByte_iff.mpr ⟨hop, hfc, hres⟩

theorem eq_encode_of_decode {w : Word} {i : Instr} (h : decode w = .ok i) : w = encode i := by
  unfold decode at h
  split_ifs at h with hop hop hop hop hop hop
  · obtain ⟨hres, rfl⟩ := unlessReserved_eq_ok h
    exact eq_encodeN_iff.mpr ⟨hop, hres⟩
  · obtain ⟨hres, rfl⟩ := unlessReserved_eq_ok h
    exact eq_encodeN_iff.mpr ⟨hop, hres⟩
  · obtain ⟨hres, rfl⟩ := unlessReserved_eq_ok h
    exact eq_encodeByte_iff.mpr ⟨hop, rfl, hres⟩
  · obtain ⟨hres, rfl⟩ := unlessReserved_eq_ok h
    exact eq_encodeN_iff.mpr ⟨hop, hres⟩
  · exact eq_encode_of_decodeBuild hop h
  · exact eq_encode_of_decodeParse hop h

/-- Settles O3: by `eq_encode_of_decode`, along the branches of the decoder. -/
theorem encodeOfADecodedWordIsTheWord : Obligations.EncodeOfADecodedWordIsTheWord :=
  fun _ _ h => (eq_encode_of_decode h).symm

theorem decode_eq_ok_iff (w : Word) (i : Instr) : decode w = .ok i ↔ w = encode i :=
  ⟨eq_encode_of_decode, decode_of_eq_encode i⟩

/-- Settles O1: each word is the encoding of its command. -/
theorem writtenOutWordsDecodeToTheirCommands : Obligations.WrittenOutWordsDecodeToTheirCommands :=
  ⟨decode_of_eq_encode .nop rfl, decode_of_eq_encode .crcInit rfl, decode_of_eq_encode (.crcUpdate 0x80) rfl,
    decode_of_eq_encode .crcBlock rfl, decode_of_eq_encode (.buildRd 0xF7 0x0B00 0x003F) rfl,
    decode_of_eq_encode (.buildRdDef 0x12 0xA5C3) rfl, decode_of_eq_encode (.buildWs 0x01 0x0101 0x03E8) rfl,
    decode_of_eq_encode (.buildWm 0x05 0x0302 0x0002) rfl, decode_of_eq_encode (.buildWmImp 0x01 0x010D) rfl,
    decode_of_eq_encode .parseRd rfl, decode_of_eq_encode .parseWs rfl, decode_of_eq_encode .parseWm rfl⟩

/-! ## The masks of the opcode table -/

theorem and_eq_and_iff_xor (w v m : Word) : w &&& m = v &&& m ↔ (w ^^^ v) &&& m = 0 := by
  have hxor : (w ^^^ v) &&& m = (w &&& m) ^^^ (v &&& m) := by
    ext i hi
    simp [Bool.and_xor_distrib_right]
  rw [hxor]
  exact BitVec.xor_eq_zero_iff.symm

theorem xor_and_range_mask_eq_zero_iff (w v m : Word) (lo len : Nat) (hl : lo + len ≤ 64)
    (hm : ∀ i, i < 64 → m.getLsbD i = (decide (lo ≤ i) && decide (i < lo + len))) :
    (w ^^^ v) &&& m = 0 ↔ w.extractLsb' lo len = v.extractLsb' lo len := by
  rw [and_range_mask_eq_zero_iff _ m lo len hl hm, BitVec.extractLsb'_xor]
  exact BitVec.xor_eq_zero_iff

theorem and_or_mask_eq_zero_iff (u m n : Word) : u &&& (m ||| n) = 0 ↔ u &&& m = 0 ∧ u &&& n = 0 := by
  rw [BitVec.and_or_distrib_left]
  exact BitVec.or_eq_zero_iff

/-- The mask of CRC.UPDATE's row leaves out B. -/
theorem and_rowMaskU_eq_iff (w v : Word) : w &&& 0xFFFFFFFFFFFF00FF = v &&& 0xFFFFFFFFFFFF00FF ↔
    opField w = opField v ∧ w.extractLsb' 16 48 = v.extractLsb' 16 48 := by
  rw [and_eq_and_iff_xor, show (0xFFFFFFFFFFFF00FF : Word) = 0xFF ||| maskU from rfl, and_or_mask_eq_zero_iff,
    xor_and_range_mask_eq_zero_iff w v 0xFF 0 8 (by decide) (by decide),
    xor_and_range_mask_eq_zero_iff w v maskU 16 48 (by decide) (by decide), opField, opField]

/-- The mask of the BUILD rows with a count or a value leaves out DEV, REG and ARG. -/
theorem and_rowMaskB_eq_iff (w v : Word) : w &&& 0x00000000FF00FFFF = v &&& 0x00000000FF00FFFF ↔
    opField w = opField v ∧ fcField w = fcField v ∧ w.extractLsb' 24 8 = v.extractLsb' 24 8 := by
  rw [and_eq_and_iff_xor, show (0x00000000FF00FFFF : Word) = 0xFF ||| (0xFF00 ||| maskWs) from rfl,
    and_or_mask_eq_zero_iff, and_or_mask_eq_zero_iff,
    xor_and_range_mask_eq_zero_iff w v 0xFF 0 8 (by decide) (by decide),
    xor_and_range_mask_eq_zero_iff w v 0xFF00 8 8 (by decide) (by decide),
    xor_and_range_mask_eq_zero_iff w v maskWs 24 8 (by decide) (by decide), opField, opField, fcField, fcField]

/-- The mask of the other BUILD rows tests ARG as well. -/
theorem and_rowMaskUncounted_eq_iff (w v : Word) : w &&& 0xFFFF0000FF00FFFF = v &&& 0xFFFF0000FF00FFFF ↔
    w &&& 0x00000000FF00FFFF = v &&& 0x00000000FF00FFFF ∧ argField w = argField v := by
  rw [and_eq_and_iff_xor w, and_eq_and_iff_xor w,
    show (0xFFFF0000FF00FFFF : Word) = 0x00000000FF00FFFF ||| 0xFFFF000000000000 from rfl, and_or_mask_eq_zero_iff,
    xor_and_range_mask_eq_zero_iff w v 0xFFFF000000000000 48 16 (by decide) (by decide), argField, argField]

/-! ## The rows of the opcode table -/

/-- A command without operands has one word. -/
theorem row_full (w : Word) (i : Instr) : w &&& 0xFFFFFFFFFFFFFFFF = encode i ↔ decode w = .ok i := by
  rw [decode_eq_ok_iff, show (0xFFFFFFFFFFFFFFFF : Word) = BitVec.allOnes 64 from rfl, BitVec.and_allOnes]

theorem row_crcUpdate (w : Word) :
    w &&& 0xFFFFFFFFFFFF00FF = encodeByte 0x02 0 &&& 0xFFFFFFFFFFFF00FF ↔ w = encodeByte 0x02 (byteField w) := by
  rw [and_rowMaskU_eq_iff, eq_encodeByte_iff, and_maskU, show opField (encodeByte 0x02 0) = 0x02 from rfl,
    show (encodeByte 0x02 0).extractLsb' 16 48 = 0 from rfl]
  simp only [true_and]

/-- The fixed bits of a BUILD row with ARG are its word at operands 0. -/
theorem row_build (w : Word) (fc : Byte) (cp : Bool) :
    w &&& 0x00000000FF00FFFF = encodeB fc 0 cp 0 0 &&& 0x00000000FF00FFFF ↔
      w = encodeB fc (devField w) cp (regField w) (argField w) := by
  obtain ⟨hop, hfc, -, hcp, -, -⟩ := eq_encodeB_iff.mp (Eq.refl (encodeB fc 0 cp 0 0))
  rw [and_rowMaskB_eq_iff, eq_encodeB_iff, hop, hfc, hcp]
  simp only [and_true, true_and]

theorem row_buildUncounted (w : Word) (fc : Byte) :
    w &&& 0xFFFF0000FF00FFFF = encodeB fc 0 false 0 0 &&& 0xFFFF0000FF00FFFF ↔
      w = encodeB fc (devField w) false (regField w) 0 := by
  obtain ⟨hop, hfc, -, hcp, -, harg⟩ := eq_encodeB_iff.mp (Eq.refl (encodeB fc 0 false 0 0))
  rw [and_rowMaskUncounted_eq_iff, and_rowMaskB_eq_iff, eq_encodeB_iff, hop, hfc, hcp, harg]
  simp only [true_and, and_assoc]

/-- Settles O5: a word matches a row exactly if it is the encoding of the row's command with the operands of its own
fields, and so exactly if it decodes to it (`decode_eq_ok_iff`). -/
theorem decodeFollowsTheOpcodeTable : Obligations.DecodeFollowsTheOpcodeTable := fun w =>
  ⟨row_full w .nop, row_full w .crcInit, (row_crcUpdate w).trans (decode_eq_ok_iff w (.crcUpdate _)).symm,
    row_full w .crcBlock, (row_build w 0x03 true).trans (decode_eq_ok_iff w (.buildRd _ _ _)).symm,
    (row_buildUncounted w 0x03).trans (decode_eq_ok_iff w (.buildRdDef _ _)).symm,
    (row_build w 0x06 false).trans (decode_eq_ok_iff w (.buildWs _ _ _)).symm,
    (row_build w 0x10 true).trans (decode_eq_ok_iff w (.buildWm _ _ _)).symm,
    (row_buildUncounted w 0x10).trans (decode_eq_ok_iff w (.buildWmImp _ _)).symm,
    row_full w .parseRd, row_full w .parseWs, row_full w .parseWm⟩

/-! ## Words with reserved bits set (R75) -/

@[simp] theorem invalidateFrom_zero {width : Nat} (c : Cells width) : invalidateFrom c 0 = [] := by
  simp [invalidateFrom]

theorem raise_plain_invalidCommand (s : State) : raise .plain .invalidCommand s = plainFailed s := rfl

theorem raise_build_invalidCommand (s : State) : raise .build .invalidCommand s = buildFailed s := by
  rw [raise_build, dropFrame, invalidateFrom_zero, errorStatus_invalidCommand, setStatus, buildFailed]

theorem raise_parse_invalidCommand (s : State) : raise .parse .invalidCommand s = parseFailed 0x0107 s.crc s := by
  rw [raise_parse, dropValues, invalidateFrom_zero, errorStatus_invalidCommand, setStatus, parseFailed]

theorem command_of_reserved {family : Family} {mask w : Word} {i : Instr}
    (hd : decode w = unlessReserved family mask w i) (hres : w &&& mask ≠ 0) (s : State) :
    command w s = .next (raise family .invalidCommand { s with cmd := w }) :=
  command_of_error (hd.trans (unlessReserved_error hres)) s

theorem command_plain_of_reserved {mask w : Word} {i : Instr} (hd : decode w = unlessReserved .plain mask w i)
    (hres : w &&& mask ≠ 0) (s : State) : command w s = .next (plainFailed { s with cmd := w }) := by
  rw [command_of_reserved hd hres, raise_plain_invalidCommand]

theorem command_build_of_reserved {mask w : Word} {i : Instr} (hd : decode w = unlessReserved .build mask w i)
    (hres : w &&& mask ≠ 0) (s : State) : command w s = .next (buildFailed { s with cmd := w }) := by
  rw [command_of_reserved hd hres, raise_build_invalidCommand]

theorem command_parse_of_reserved {mask w : Word} {i : Instr} (hd : decode w = unlessReserved .parse mask w i)
    (hres : w &&& mask ≠ 0) (s : State) :
    command w s = .next (parseFailed 0x0107 s.crc { s with cmd := w }) := by
  rw [command_of_reserved hd hres, raise_parse_invalidCommand]

/-- Settles O6: each line of the rule's table is a form of the decoder, whose family gives the failure effects. -/
theorem reservedBitsCompleteWithInvalidCommand : Obligations.ReservedBitsCompleteWithInvalidCommand := by
  intro w s
  refine ⟨fun hop hres => ?_, fun hop hres => ?_, fun hop hfc hcp hres => ?_, fun hop hfc hcp hres => ?_,
    fun hop hfc hres => ?_, fun hop hfc hres => ?_⟩
  · rcases hop with hop | hop | hop
    · exact command_plain_of_reserved (decode_form_nop hop) hres s
    · exact command_plain_of_reserved (decode_form_crcInit hop) hres s
    · exact command_plain_of_reserved (decode_form_crcBlock hop) hres s
  · exact command_plain_of_reserved (decode_form_crcUpdate hop) hres s
  · rcases hfc with hfc | hfc
    · exact command_build_of_reserved (decode_form_buildRd hop hfc hcp) hres s
    · exact command_build_of_reserved (decode_form_buildWm hop hfc hcp) hres s
  · rcases hfc with hfc | hfc
    · exact command_build_of_reserved (decode_form_buildRdDef hop hfc hcp) hres s
    · exact command_build_of_reserved (decode_form_buildWmImp hop hfc hcp) hres s
  · exact command_build_of_reserved (decode_form_buildWs hop hfc) hres s
  · rcases hfc with hfc | hfc | hfc
    · exact command_parse_of_reserved (decode_form_parseRd hop hfc) hres s
    · exact command_parse_of_reserved (decode_form_parseWs hop hfc) hres s
    · exact command_parse_of_reserved (decode_form_parseWm hop hfc) hres s

/-! ## Operands that are illegal in every state (R76, R125, R128, R131) -/

theorem buildWith_of_device_illegal {dev : Byte} (hdev : deviceOk dev = false) (fc : Byte) (reg : Half)
    (payload : Payload) (s : State) : buildWith dev fc reg payload s = .next (buildFailed s) := by
  have hgt : dev > Config.maxDevice := by simpa [deviceOk] using hdev
  unfold buildWith
  rw [if_pos hgt, raise_build_invalidCommand]

theorem buildWith_invalid (dev fc : Byte) (reg : Half) (s : State) :
    buildWith dev fc reg .invalid s = .next (buildFailed s) := by
  unfold buildWith
  split <;> rw [raise_build_invalidCommand]

theorem readPayload_of_count_illegal {count : Half} (h : readCountOk count = false) : readPayload count = .invalid :=
  if_pos (by simpa [readCountOk] using h)

/-- R128: a count of 0 or above 127 equals no WCOUNT that passes the checks before it. -/
theorem listPayload_of_count_illegal {count : Half} (h : writeCountOk count = false) (s : State) :
    listPayload (some count) s = .invalid := by
  have hcount : count.toNat = 0 ∨ Config.wdataCap < count.toNat := by
    rcases Bool.and_eq_false_iff.mp h with h0 | hcap
    · exact .inl (congrArg BitVec.toNat (show count = 0 by simpa using h0))
    · exact .inr (by simpa using hcap)
  unfold listPayload
  split_ifs with h0 hcap hne
  · rfl
  · rfl
  · rfl
  · have heq : count.toNat = s.wcount.toNat := by simpa using hne
    omega

/-- Settles O10: the device check fails, or the payload is invalid whatever WCOUNT and WDATA are. -/
theorem illFormedInstructionsRaiseInvalidCommand : Obligations.IllFormedInstructionsRaiseInvalidCommand := by
  intro i s h
  cases i with
  | nop | crcInit | crcUpdate | crcBlock | parseRd | parseWs | parseWm => cases h
  | buildRd dev reg count =>
    rcases Bool.and_eq_false_iff.mp h with hdev | hcount
    · exact buildWith_of_device_illegal hdev _ _ _ s
    · rw [exec, execBuildRd, readPayload_of_count_illegal hcount, buildWith_invalid]
  | buildRdDef dev reg => rw [exec_buildRdDef, buildWith_of_device_illegal h]
  | buildWs dev reg value => rw [exec_buildWs, buildWith_of_device_illegal h]
  | buildWm dev reg count =>
    rcases Bool.and_eq_false_iff.mp h with hdev | hcount
    · exact buildWith_of_device_illegal hdev _ _ _ s
    · rw [exec, execBuildWm, listPayload_of_count_illegal hcount, buildWith_invalid]
  | buildWmImp dev reg => exact buildWith_of_device_illegal h _ _ _ s

/-! ## LOADI and LOADW (R89) -/

theorem actAll_cons_of_next {e : Event} {es : List Event} {s t : State} (h : act e s = .next t) :
    actAll (e :: es) s = actAll es t := by rw [actAll, h]

/-- The writes of a list into a buffer below its capacity. `put` is the state as a function of the buffer's elements. -/
theorem actAll_asmFill {width : Nat} {b : Buffer} {cap : Nat} {put : Cells width → State}
    (hput : ∀ c i v, i < cap → access (.writeBuf b i v.toNat) (put c) = .next (put (writeCell c i v)))
    (vs : List (BitVec width)) (es : List Event) {i : Nat} (hcap : i + vs.length ≤ cap) (c : Cells width) :
    actAll (asmFill b i vs ++ es) (put c) = actAll es (put (writeCells c i vs)) := by
  induction vs generalizing i c with
  | nil => rfl
  | cons v vs ih =>
    rw [List.length_cons] at hcap
    have hfirst : act (.access (.writeBuf b i v.toNat)) (put c) = .next (put (writeCell c i v)) :=
      hput c i v (by omega)
    exact (actAll_cons_of_next hfirst).trans (ih (by omega) _)

theorem access_writeBuf_ibuf_replaceInputs {s : State} {i : Nat} (hi : i < s.cfg.ibufCap) (v : Byte) (c : Cells 8)
    (d : Cells 16) :
    access (.writeBuf .ibuf i v.toNat) (replaceInputs c d s) = .next (replaceInputs (writeCell c i v) d s) := by
  rw [access_writeBuf_ibuf (s := replaceInputs c d s) hi v.isLt, BitVec.ofNat_toNat, BitVec.setWidth_eq]
  rfl

theorem access_writeBuf_wdata_replaceInputs {i : Nat} (hi : i < Config.wdataCap) (v : Half) (c : Cells 8)
    (d : Cells 16) (s : State) :
    access (.writeBuf .wdata i v.toNat) (replaceInputs c d s) = .next (replaceInputs c (writeCell d i v) s) := by
  rw [access_writeBuf_wdata hi v.isLt, BitVec.ofNat_toNat, BitVec.setWidth_eq]
  rfl

theorem asmLoadI_eq_some {cfg : Config} {bytes : List Byte} {es : List Event} (h : asmLoadI cfg bytes = some es) :
    bytes.length ≤ cfg.ibufCap ∧ es = asmFill .ibuf 0 bytes ++ [.access (.writeReg .ilen bytes.length)] := by
  simpa [asmLoadI, eq_comm] using h

theorem asmLoadW_eq_some {values : List Half} {es : List Event} (h : asmLoadW values = some es) :
    values.length ≤ Config.wdataCap ∧ es = asmFill .wdata 0 values ++ [.access (.writeReg .wcount values.length)] := by
  simpa [asmLoadW, eq_comm] using h

theorem actAll_loadI {s : State} {bytes : List Byte} (hcap : bytes.length ≤ s.cfg.ibufCap)
    (h16 : bytes.length < 2 ^ 16) :
    actAll (asmFill .ibuf 0 bytes ++ [.access (.writeReg .ilen bytes.length)]) s =
      .next (setIlen (BitVec.ofNat 16 bytes.length) (replaceInputs (writeCells s.mem.ibuf 0 bytes) s.mem.wdata s)) :=
  (actAll_asmFill (put := fun c => replaceInputs c s.mem.wdata s)
    (fun c _ v hi => access_writeBuf_ibuf_replaceInputs hi v c _) bytes _ (by omega) s.mem.ibuf).trans
    (actAll_cons_of_next (access_writeReg_ilen h16 hcap))

theorem actAll_loadW {values : List Half} (hcap : values.length ≤ Config.wdataCap) (s : State) :
    actAll (asmFill .wdata 0 values ++ [.access (.writeReg .wcount values.length)]) s =
      .next (setWcount (BitVec.ofNat 8 values.length)
        (replaceInputs s.mem.ibuf (writeCells s.mem.wdata 0 values) s)) :=
  (actAll_asmFill (put := fun d => replaceInputs s.mem.ibuf d s)
    (fun d _ v hi => access_writeBuf_wdata_replaceInputs hi v _ d s) values _ (by rwa [Nat.zero_add]) s.mem.wdata).trans
    (actAll_cons_of_next (access_writeReg_wcount (Nat.lt_of_le_of_lt hcap (by decide)) _))

theorem readCell_writeCells_of_lt {width : Nat} (c : Cells width) {vs : List (BitVec width)} {k : Nat}
    (h : k < vs.length) : readCell (writeCells c 0 vs) k = vs[k]? := by
  simp [readCell_writeCells, h]

theorem readCell_writeCells_of_ge {width : Nat} (c : Cells width) {vs : List (BitVec width)} {k : Nat}
    (h : vs.length ≤ k) : readCell (writeCells c 0 vs) k = readCell c k := by
  simp [readCell_writeCells, h]

/-- Settles O52: `actAll_loadI` and `actAll_loadW` give the loaded state, whose elements are read back. The capacity must
be legal for the number of bytes to fit ILEN. -/
theorem loadingFillsTheInputs : Obligations.LoadingFillsTheInputs := by
  refine ⟨fun s bytes es hlegal h => ?_, fun s values es h => ?_⟩
  · obtain ⟨hcap, rfl⟩ := asmLoadI_eq_some h
    have h16 : bytes.length < 2 ^ 16 := by have := hlegal.2; omega
    refine ⟨_, actAll_loadI hcap h16, ⟨Nat.mod_eq_of_lt h16, fun k hk => ?_⟩, fun k hk => ?_, rfl⟩
    · simp [readCell_writeCells_of_lt _ hk]
    · simp [readCell_writeCells_of_ge _ hk]
  · obtain ⟨hcap, rfl⟩ := asmLoadW_eq_some h
    have h8 : values.length < 2 ^ 8 := Nat.lt_of_le_of_lt hcap (by decide)
    refine ⟨_, actAll_loadW hcap s, ⟨Nat.mod_eq_of_lt h8, fun k hk => ?_⟩, fun k hk => ?_, rfl⟩
    · simp [readCell_writeCells_of_lt _ hk]
    · simp [readCell_writeCells_of_ge _ hk]

end Sys2Proof.Machine
end

section
/-! PROOFS. The statements about the CRC engine (spec/40_crc.md): CrcStep and Crc16 as the rule computes them, the
residue of a frame, the CRC of a changed sequence, the three CRC commands with their words, streaming, and what the plain
commands leave alone. -/

namespace Sys2Proof.Machine

/-! ## CrcStep on numbers (R100) -/

/-- R100: one shift step on a number, with the test of bit 0 made before the halving. -/
def natCrcShift (x : Nat) : Nat := if x % 2 = 1 then (x / 2) ^^^ 0xA001 else x / 2

theorem toNat_crcShift (c : Half) : (crcShift c).toNat = natCrcShift c.toNat := by
  have hbit : c.getLsbD 0 = decide (c.toNat % 2 = 1) := Nat.testBit_zero c.toNat
  have hhalf : c.toNat >>> 1 = c.toNat / 2 := Nat.shiftRight_one c.toNat
  unfold crcShift natCrcShift
  rw [hbit]
  by_cases hodd : c.toNat % 2 = 1
  · simp [hodd, hhalf]
  · simp [hodd, hhalf]

theorem toNat_crcShifts (n : Nat) (c : Half) : (crcShifts n c).toNat = natCrcShift^[n] c.toNat := by
  induction n generalizing c with
  | zero => rfl
  | succ n ih => rw [crcShifts, ih, toNat_crcShift, Function.iterate_succ_apply]

theorem toNat_crcStep (c : Half) (b : Byte) : (crcStep c b).toNat = natCrcShift^[8] (c.toNat ^^^ b.toNat) := by
  rw [crcStep, toNat_crcShifts, BitVec.toNat_xor, BitVec.toNat_setWidth_of_le (by decide)]

theorem crcFrom_eq_foldl (c : Half) (bytes : List Byte) : crcFrom c bytes = bytes.foldl crcStep c := by
  induction bytes generalizing c with
  | nil => rfl
  | cons b bytes ih => exact ih (crcStep c b)

/-- Settles O15: each shift step is the rule's on numbers, and a sequence is a fold by definition. -/
theorem crcIsTheBitwiseDivisionOfTheRule : Obligations.CrcIsTheBitwiseDivisionOfTheRule :=
  ⟨toNat_crcStep, crcFrom_eq_foldl crcInitial⟩

/-! ## The residue of a frame (R108) -/

/-- The low byte clears itself out of the accumulator, so the eight steps shift the high byte down. -/
theorem crcStep_lowByte (c : Half) : crcStep c (lowByte c) = c >>> 8 := by
  have hclear : ∀ i, i < 8 → (c ^^^ (lowByte c).setWidth 16).getLsbD i = false := fun i hi => by
    simp [lowByte, hi, show i < 16 by omega]
  have hlow : (lowByte c).setWidth 16 >>> 8 = 0#16 := by
    ext i hi
    simp
  rw [crcStep, crcShifts_plain 8 hclear, BitVec.ushiftRight_xor_distrib, hlow, BitVec.xor_zero]

theorem setWidth_highByte (c : Half) : (highByte c).setWidth 16 = c >>> 8 := by
  ext i hi
  simpa [highByte] using fun hbit => show i < 8 by have := BitVec.lt_of_getLsbD hbit; omega

/-- What is left is the high byte, which clears itself in turn. -/
theorem crcStep_highByte (c : Half) : crcStep (c >>> 8) (highByte c) = 0 := by
  rw [crcStep, setWidth_highByte, BitVec.xor_self]
  rfl

/-- Settles O20: the two bytes of the CRC clear the accumulator that holds it, one after the other. -/
theorem frameWithItsOwnCrcHasResidueZero : Obligations.FrameWithItsOwnCrcHasResidueZero := by
  intro bytes
  calc crc16 (frameOf bytes)
      = crcStep (crcStep (crc16 bytes) (lowByte (crc16 bytes))) (highByte (crc16 bytes)) := crcFrom_append ..
    _ = crcStep (crc16 bytes >>> 8) (highByte (crc16 bytes)) := by rw [crcStep_lowByte]
    _ = 0x0000 := crcStep_highByte _

/-! ## A changed byte (R110) -/

/-- Settles O21: the accumulators are equal before the changed byte, different after it, and stay different. -/
theorem oneChangedByteChangesTheCrc : Obligations.OneChangedByteChangesTheCrc := by
  intro before after a b hab h
  simp only [crc16, crcFrom_append] at h
  exact hab (crcStep_injective_right (crcFrom_injective h))

/-! ## The words of a form (R75) -/

/-- A form whose words the decoder answers by its reserved bits alone: clear, the word runs; set, its family fails. -/
theorem wordsRun_of_form {selects reserved : Word → Prop} {i : Word → Instr} {failed : State → State}
    {family : Family} {mask : Word} (hdecode : ∀ w, selects w → decode w = unlessReserved family mask w (i w))
    (hmask : ∀ w, w &&& mask = 0 ↔ ¬reserved w) (hfailed : ∀ s, raise family .invalidCommand s = failed s) :
    WordsRun selects reserved i failed := by
  intro w s hsel
  refine ⟨fun hclear => ?_, fun hset => ?_⟩
  · exact command_of_ok ((hdecode w hsel).trans (unlessReserved_ok ((hmask w).mpr hclear))) s
  · rw [command_of_reserved (hdecode w hsel) (fun hz => (hmask w).mp hz hset), hfailed]

/-- R75: the words of the commands of format N, whose operands are none. -/
theorem wordsRun_formatN {op : Byte} {i : Instr}
    (hdecode : ∀ w, opField w = op → decode w = unlessReserved .plain maskN w i) :
    WordsRun (fun w => opField w = op) (fun w => w.extractLsb' 8 56 ≠ 0) (fun _ => i) plainFailed :=
  wordsRun_of_form hdecode (fun w => (and_maskN w).trans not_not.symm) raise_plain_invalidCommand

theorem wordsRun_crcUpdate :
    WordsRun (fun w => opField w = 0x02) (fun w => w.extractLsb' 16 48 ≠ 0) (fun w => .crcUpdate (byteField w))
      plainFailed :=
  wordsRun_of_form (fun _ => decode_form_crcUpdate) (fun w => (and_maskU w).trans not_not.symm)
    raise_plain_invalidCommand

/-! ## The CRC commands (R103 to R105) -/

theorem finish_crc_setCrc (c : Half) (s : State) :
    finish .crc (setCrc c s) = { s with crc := c, status := 0x0001 } := by
  rw [finish_eq, successStatus_crc, setStatus, setCrc]

theorem exec_crcInit (s : State) : exec .crcInit s = .next { s with crc := 0xFFFF, status := 0x0001 } :=
  congrArg Host.Outcome.next (finish_crc_setCrc crcInitial s)

theorem exec_crcUpdate (b : Byte) (s : State) :
    exec (.crcUpdate b) s = .next { s with crc := crcStep s.crc b, status := 0x0001 } :=
  congrArg Host.Outcome.next (finish_crc_setCrc (crcStep s.crc b) s)

theorem exec_crcBlock_of_holdsInput {s : State} {bytes : List Byte} (h : HoldsInput s bytes) :
    exec .crcBlock s = .next { s with crc := crc16 bytes, status := 0x0001 } := by
  rw [exec, execCrcBlock, (holdsInput_iff s bytes).mp h, ← finish_crc_setCrc]

/-- R53: the first element without a value is where reading all of IBUF[0..n) stops. -/
theorem firstUnwritten_ibuf_iff (s : State) (n i : Nat) :
    FirstUnwritten s .ibuf n i ↔ readCells s.mem.ibuf 0 n = .error i := by
  simp [FirstUnwritten, readCells_eq_error_iff]

theorem exec_crcBlock_of_firstUnwritten {s : State} {i : Nat} (h : FirstUnwritten s .ibuf s.ilen.toNat i) :
    exec .crcBlock s = .fault (.unwrittenRead .ibuf i) := by
  rw [exec, execCrcBlock, (firstUnwritten_ibuf_iff s _ i).mp h]

/-- Settles O16: by the command's equation and the words of format N. -/
theorem crcInitResetsTheAccumulator : Obligations.CrcInitResetsTheAccumulator :=
  ⟨exec_crcInit, wordsRun_formatN fun _ => decode_form_crcInit⟩

/-- Settles O17: by the command's equation, the five runs of CrcStep, and the words of format U. -/
theorem crcUpdateFeedsOneByte : Obligations.CrcUpdateFeedsOneByte :=
  ⟨exec_crcUpdate, by decide, wordsRun_crcUpdate⟩

/-- Settles O18: the input is read whole or up to the first element without a value; a frame has residue 0. -/
theorem crcBlockTakesTheCrcOfTheInput : Obligations.CrcBlockTakesTheCrcOfTheInput := by
  refine ⟨fun s bytes => exec_crcBlock_of_holdsInput, fun s body h => ?_,
    fun s i => exec_crcBlock_of_firstUnwritten, wordsRun_formatN fun _ => decode_form_crcBlock⟩
  rw [exec_crcBlock_of_holdsInput h, frameWithItsOwnCrcHasResidueZero body]

/-! ## Streaming (R106) -/

/-- R88: writing a command's word runs the command. -/
theorem act_asmCommand (i : Instr) (s : State) : act (asmCommand i) s = exec i { s with cmd := encode i } :=
  (access_writeReg_cmd (encode i) s).trans (command_of_ok (decodeOfEncodeIsTheInstruction i) s)

/-- R104, R101: one CRC.UPDATE for each byte feeds them all into the accumulator. STATUS is asked for before the run,
since an empty run writes none. -/
theorem actAll_crcUpdates (bytes : List Byte) {s : State} (hstatus : s.status = 0x0001) :
    ∃ t, actAll (bytes.map fun b => asmCommand (.crcUpdate b)) s = .next t ∧ t.crc = crcFrom s.crc bytes ∧
      t.status = 0x0001 := by
  induction bytes generalizing s with
  | nil => exact ⟨s, rfl, rfl, hstatus⟩
  | cons b bytes ih =>
    have hfirst := (act_asmCommand (.crcUpdate b) s).trans (exec_crcUpdate b _)
    rw [List.map_cons, actAll_cons_of_next hfirst]
    exact ih rfl

/-- R106: CRC.INIT, then one CRC.UPDATE for each byte. -/
theorem actAll_asmCrcBytes (bytes : List Byte) (s : State) :
    ∃ t, actAll (asmCrcBytes bytes) s = .next t ∧ t.crc = crc16 bytes ∧ t.status = 0x0001 := by
  have hinit := (act_asmCommand .crcInit s).trans (exec_crcInit _)
  rw [asmCrcBytes, actAll_cons_of_next hinit]
  exact actAll_crcUpdates bytes rfl

/-- Settles O19: the streamed bytes by `actAll_asmCrcBytes`; the block by its equation, since CMD is no part of the
input. -/
theorem streamingTheCrcEqualsTheBlock : Obligations.StreamingTheCrcEqualsTheBlock := by
  refine ⟨fun s bytes => actAll_asmCrcBytes bytes s, fun u bytes h => ?_⟩
  have hinput : HoldsInput { u with cmd := encode .crcBlock } bytes := h
  exact ⟨_, (act_asmCommand .crcBlock u).trans (exec_crcBlock_of_holdsInput hinput), rfl, rfl⟩

/-! ## What the plain commands leave alone -/

/-- R103 to R105, R181: the effects of NOP and the CRC commands touch no memory and no register but CRC and STATUS. -/
theorem Effect.plain_frame {s t : State} {k : Kind} (h : Effect s k t) (hk : k = .nop ∨ k = .crc) :
    SameMemory s t ∧ SameInputs s t ∧ t.olen = s.olen ∧ t.rcount = s.rcount := by
  cases h with
  | nothing | crc => exact ⟨fun _ _ => rfl, ⟨rfl, rfl, rfl⟩, rfl, rfl⟩
  | frame | buildFailed | badResponse | badField | badCrc | values | success => simp at hk

/-- Settles O44: the four commands are of the kinds whose effect `Effect.plain_frame` describes. -/
theorem frameOfThePlainCommands : Obligations.FrameOfThePlainCommands := by
  intro i s t hi h
  have hkind : kindOf i = .nop ∨ kindOf i = .crc := by
    rcases hi with rfl | rfl | ⟨b, rfl⟩ | rfl
    · exact .inl rfl
    · exact .inr rfl
    · exact .inr rfl
    · exact .inr rfl
  obtain ⟨hmem, hinputs, holen, hrcount⟩ := (exec_effect h).plain_frame hkind
  refine ⟨hmem, hinputs, exec_sameRun h, holen, hrcount, ?_⟩
  rintro rfl
  cases h
  exact ⟨rfl, rfl⟩

end Sys2Proof.Machine
end

section
/-! PROOFS. The statements about the frame builder (spec/41_build.md): what the BUILD pipeline leaves, the payloads of
the forms, the five commands with their words, what every BUILD word can do, and what the commands leave alone. -/

namespace Sys2Proof.Machine

/-! ## What the BUILD pipeline leaves (R120, R123, R131) -/

theorem frameOf_length (body : List Byte) : (frameOf body).length = body.length + 2 := List.length_append

/-- R123: a frame without its last two bytes is its body. -/
theorem take_frameOf (body : List Byte) : (frameOf body).take ((frameOf body).length - 2) = body :=
  take_append_crcBytes body (crc16 body)

/-- R123: `emit` of a body that fits OBUF with its CRC is a successful BUILD. -/
theorem emit_built {body : List Byte} (hlen : body.length + 2 ≤ Config.obufCap) (s : State) :
    Built body s (emit body s) :=
  ⟨emit_holdsFrame hlen s, emit_crc body s, emit_status body s, rfl, ⟨rfl, rfl, rfl⟩, ⟨rfl, rfl, rfl, rfl, rfl, rfl⟩,
    fun _ => rfl, fun _ => rfl, fun _ => rfl⟩

theorem Built.olen {body : List Byte} {s t : State} (h : Built body s t) : t.olen.toNat = body.length + 2 := by
  obtain ⟨⟨holen, -⟩, -⟩ := h
  rw [holen, frameOf_length]

theorem buildWith_bytes {dev : Byte} (hdev : dev ≤ Config.maxDevice) (fc : Byte) (reg : Half) (p : List Byte)
    (s : State) : buildWith dev fc reg (.bytes p) s = .next (emit ([dev, fc] ++ be16 reg ++ p) s) :=
  if_neg (BitVec.not_lt.mpr hdev)

theorem buildWith_unwritten {dev : Byte} (hdev : dev ≤ Config.maxDevice) (fc : Byte) (reg : Half) (i : Nat)
    (s : State) : buildWith dev fc reg (.unwritten i) s = .fault (.unwrittenRead .wdata i) :=
  if_neg (BitVec.not_lt.mpr hdev)

/-- R131. -/
theorem buildWith_of_device_gt {dev : Byte} (hdev : dev > 247) (fc : Byte) (reg : Half) (payload : Payload)
    (s : State) : buildWith dev fc reg payload s = .next (buildFailed s) :=
  buildWith_of_device_illegal (decide_eq_false (BitVec.not_le.mpr hdev)) fc reg payload s

/-- R82, R83: a payload of one 16-bit value makes an 8-byte request. -/
theorem buildWith_shortBody {dev : Byte} (hdev : dev ≤ 247) (fc : Byte) (reg arg : Half) (s : State) :
    ∃ t, buildWith dev fc reg (.bytes (be16 arg)) s = .next t ∧ Built (shortBody dev fc reg arg) s t ∧ t.olen = 8 := by
  have hbuilt : Built (shortBody dev fc reg arg) s (emit (shortBody dev fc reg arg) s) :=
    emit_built (by simp [shortBody, Config.obufCap]) s
  exact ⟨_, buildWith_bytes hdev fc reg (be16 arg) s, hbuilt, BitVec.eq_of_toNat_eq hbuilt.olen⟩

/-! ## The words of a BUILD form (R75) -/

theorem wordsRun_build {selects reserved : Word → Prop} {i : Word → Instr} {mask : Word}
    (hdecode : ∀ w, selects w → decode w = unlessReserved .build mask w (i w))
    (hmask : ∀ w, w &&& mask = 0 ↔ ¬reserved w) : WordsRun selects reserved i buildFailed :=
  wordsRun_of_form hdecode hmask raise_build_invalidCommand

theorem and_maskCounted_iff_not (w : Word) : w &&& maskCounted = 0 ↔ ¬w.extractLsb' 25 7 ≠ 0 :=
  (and_maskCounted w).trans not_not.symm

theorem and_maskUncounted_iff_not (w : Word) :
    w &&& maskUncounted = 0 ↔ ¬(argField w ≠ 0 ∨ w.extractLsb' 25 7 ≠ 0) := by
  rw [and_maskUncounted, not_or, not_not, not_not, argField]

/-! ## The requests of 8 bytes (R125 to R127) -/

theorem exec_buildRd (dev : Byte) (reg count : Half) (s : State) :
    exec (.buildRd dev reg count) s = buildWith dev 0x03 reg (readPayload count) s := rfl

theorem readPayload_of_ne_zero {count : Half} (h : count ≠ 0) : readPayload count = .bytes (be16 count) := if_neg h

/-- Settles O22: a count other than 0 is the payload, and either illegal operand fails. -/
theorem buildRdBuildsTheReadRequest : Obligations.BuildRdBuildsTheReadRequest := by
  refine ⟨fun dev reg count s hdev hcount => ?_, fun dev reg count s hbad => ?_,
    wordsRun_build (fun w ⟨hop, hfc, hcp⟩ => decode_form_buildRd hop hfc hcp) and_maskCounted_iff_not⟩
  · rw [exec_buildRd, readPayload_of_ne_zero hcount]
    exact buildWith_shortBody hdev 0x03 reg count s
  · rcases hbad with hdev | rfl
    · exact buildWith_of_device_gt hdev _ _ _ s
    · exact buildWith_invalid dev 0x03 reg s

/-- Settles O23: the payload is that of BUILD.RD with count 1. -/
theorem buildRdDefReadsOneRegister : Obligations.BuildRdDefReadsOneRegister :=
  ⟨fun _ reg s hdev => buildWith_shortBody hdev 0x03 reg 1 s,
    fun _ reg s hdev => buildWith_of_device_gt hdev 0x03 reg defaultReadPayload s, fun _ _ _ => rfl,
    wordsRun_build (fun _ ⟨hop, hfc, hcp⟩ => decode_form_buildRdDef hop hfc hcp) and_maskUncounted_iff_not⟩

/-- Settles O24: the value is the payload, whatever it is. -/
theorem buildWsBuildsTheWriteRequest : Obligations.BuildWsBuildsTheWriteRequest :=
  ⟨fun _ reg value s hdev => buildWith_shortBody hdev 0x06 reg value s,
    fun _ reg value s hdev => buildWith_of_device_gt hdev 0x06 reg (singlePayload value) s,
    wordsRun_build (fun _ ⟨hop, hfc⟩ => decode_form_buildWs hop hfc) fun w => (and_maskWs w).trans not_not.symm⟩

/-! ## The bytes of a value list (R84, R122) -/

theorem pack_eq_valueBytes (values : List Half) : pack values = valueBytes values := by
  induction values with
  | nil => rfl
  | cons v values ih => rw [pack, ih]; rfl

/-- R54: a number that fits one byte, as two. -/
theorem be16_ofNat {n : Nat} (h : n < 2 ^ 8) : be16 (BitVec.ofNat 16 n) = [0, BitVec.ofNat 8 n] := by
  have hhigh : (BitVec.ofNat 16 n).extractLsb' 8 8 = 0 := BitVec.eq_of_toNat_eq (by
    simp [Nat.shiftRight_eq_div_pow]; omega)
  have hlow : (BitVec.ofNat 16 n).extractLsb' 0 8 = BitVec.ofNat 8 n := BitVec.eq_of_toNat_eq (by simp)
  rw [be16, hhigh, hlow]

theorem listBytes_eq {n : Nat} (h : n < 2 ^ 8) (values : List Half) :
    listBytes n values = [0, BitVec.ofNat 8 n, BitVec.ofNat 8 (2 * n)] ++ valueBytes values := by
  rw [listBytes, be16_ofNat h, pack_eq_valueBytes]
  rfl

/-- R84: the body of a 0x10 request is what the pipeline assembles. -/
theorem listBody_eq {values : List Half} (h : values.length ≤ 127) (dev : Byte) (reg : Half) :
    [dev, 0x10] ++ be16 reg ++ listBytes values.length values = listBody dev reg values := by
  rw [listBytes_eq (by omega)]
  rfl

/-! ## The payload of a value list (R128, R129) -/

/-- R29, R33: WDATA[0..WCOUNT) holds `values` if and only if reading all of it gives them. -/
theorem suppliesValues_iff (s : State) (values : List Half) :
    SuppliesValues s values ↔ readCells s.mem.wdata 0 s.wcount.toNat = .ok values := by
  have hinj : Function.Injective (Option.map Reply.bits16) :=
    Option.map_injective fun _ _ h => Reply.bits16.inj h
  simp only [SuppliesValues, readCells_eq_ok_iff, read_wdata, hinj.eq_iff, Nat.zero_add]
  exact (and_congr_left' eq_comm).trans (and_congr_right fun hlen => by rw [hlen])

/-- R53: the first element without a value is where reading all of WDATA[0..n) stops. -/
theorem firstUnwritten_wdata_iff (s : State) (n i : Nat) :
    FirstUnwritten s .wdata n i ↔ readCells s.mem.wdata 0 n = .error i := by
  simp [FirstUnwritten, readCells_eq_error_iff]

/-- The InvalidCommand checks on a value list are passed: it is not empty, not too long, and of the explicit count's
length if there is one. -/
structure ListAccepted (count : Option Half) (s : State) : Prop where
  nonempty : s.wcount.toNat ≠ 0
  fits : s.wcount.toNat ≤ Config.wdataCap
  counted : ∀ c ∈ count, c.toNat = s.wcount.toNat

section
variable {count : Option Half} {s : State}

theorem listPayload_of_not_accepted (h : ¬ListAccepted count s) : listPayload count s = .invalid := by
  unfold listPayload
  split_ifs with hempty hlong hcount
  · rfl
  · rfl
  · rfl
  · refine absurd ⟨hempty, Nat.not_lt.mp hlong, ?_⟩ h
    rintro c rfl
    simpa using hcount

variable (h : ListAccepted count s)
include h

theorem ListAccepted.not_miscounted : ¬count.any (fun c => c.toNat ≠ s.wcount.toNat) = true := by
  cases count with
  | none => nofun
  | some c => simpa using h.counted c rfl

theorem listPayload_of_read {values : List Half} (hread : readCells s.mem.wdata 0 s.wcount.toNat = .ok values) :
    listPayload count s = .bytes (listBytes s.wcount.toNat values) := by
  rw [listPayload, if_neg h.nonempty, if_neg (Nat.not_lt.mpr h.fits), if_neg h.not_miscounted, hread]

theorem listPayload_of_read_error {i : Nat} (hread : readCells s.mem.wdata 0 s.wcount.toNat = .error i) :
    listPayload count s = .unwritten i := by
  rw [listPayload, if_neg h.nonempty, if_neg (Nat.not_lt.mpr h.fits), if_neg h.not_miscounted, hread]

end

/-- R129: without an explicit count the count is WCOUNT. -/
theorem listPayload_none (s : State) : listPayload none s = listPayload (some (s.wcount.setWidth 16)) s := by
  have hself : (s.wcount.setWidth 16).toNat = s.wcount.toNat := BitVec.toNat_setWidth_of_le (by decide)
  simp only [listPayload, Option.any_none, Option.any_some, hself, ne_eq, not_true_eq_false, decide_false]

/-! ## The list requests (R128, R129) -/

section
variable {dev : Byte} {reg : Half} {count : Option Half} {s : State}

/-- R84, R128, R129: an accepted list that is all there makes its request. -/
theorem buildWith_listPayload_of_values {values : List Half} (hdev : dev ≤ 247) (hvalues : SuppliesValues s values)
    (hpos : 1 ≤ values.length) (hcap : values.length ≤ 127) (hcount : ∀ c ∈ count, c.toNat = values.length) :
    ∃ t, buildWith dev 0x10 reg (listPayload count s) s = .next t ∧ Built (listBody dev reg values) s t ∧
      t.olen.toNat = 9 + 2 * values.length := by
  have hlen : s.wcount.toNat = values.length := hvalues.1
  have haccepted : ListAccepted count s := ⟨by omega, hlen ▸ hcap, hlen ▸ hcount⟩
  have hbody : (listBody dev reg values).length = 7 + 2 * values.length := by
    rw [listBody, ← pack_eq_valueBytes, List.length_append, pack_length]
    rfl
  have hbuilt : Built (listBody dev reg values) s (emit (listBody dev reg values) s) :=
    emit_built (by rw [hbody]; show _ ≤ 263; omega) s
  refine ⟨_, ?_, hbuilt, by rw [hbuilt.olen, hbody]; omega⟩
  rw [listPayload_of_read haccepted ((suppliesValues_iff s values).mp hvalues), buildWith_bytes hdev, hlen,
    listBody_eq hcap]

theorem buildWith_listPayload_of_not_accepted (h : ¬ListAccepted count s) :
    buildWith dev 0x10 reg (listPayload count s) s = .next (buildFailed s) := by
  rw [listPayload_of_not_accepted h, buildWith_invalid]

/-- R53, R128, R129: an accepted list faults on its first element that holds no value. -/
theorem buildWith_listPayload_of_firstUnwritten {i : Nat} (hdev : dev ≤ 247) (hcap : s.wcount ≤ 127)
    (hcount : ∀ c ∈ count, c.toNat = s.wcount.toNat) (h : FirstUnwritten s .wdata s.wcount.toNat i) :
    buildWith dev 0x10 reg (listPayload count s) s = .fault (.unwrittenRead .wdata i) := by
  have haccepted : ListAccepted count s := ⟨Nat.ne_zero_of_lt h.1, hcap, hcount⟩
  rw [listPayload_of_read_error haccepted ((firstUnwritten_wdata_iff s _ i).mp h), buildWith_unwritten hdev]

/-- R128, R129: an empty or too long list is not accepted, whatever the count. -/
theorem not_listAccepted_of_wcount (h : s.wcount = 0 ∨ s.wcount > 127) : ¬ListAccepted count s := fun haccepted =>
  h.elim (fun hzero => haccepted.nonempty (congrArg BitVec.toNat hzero)) (Nat.not_lt.mpr haccepted.fits)

end

/-- Settles O25: by what the pipeline does with the list's payload, the count being explicit. -/
theorem buildWmBuildsTheListRequest : Obligations.BuildWmBuildsTheListRequest := by
  refine ⟨fun dev reg count s values hdev hvalues hpos hcap hcount => ?_, fun dev reg count s hbad => ?_,
    fun dev reg count s i hdev hcap hcount hfirst => ?_,
    wordsRun_build (fun w ⟨hop, hfc, hcp⟩ => decode_form_buildWm hop hfc hcp) and_maskCounted_iff_not⟩
  · exact buildWith_listPayload_of_values hdev hvalues hpos hcap (by simpa using hcount)
  · rcases hbad with hdev | hzero | hlong | hcount
    · exact buildWith_of_device_gt hdev _ _ _ s
    · exact buildWith_listPayload_of_not_accepted (not_listAccepted_of_wcount (.inl hzero))
    · exact buildWith_listPayload_of_not_accepted (not_listAccepted_of_wcount (.inr hlong))
    · exact buildWith_listPayload_of_not_accepted fun haccepted => hcount (haccepted.counted count rfl)
  · exact buildWith_listPayload_of_firstUnwritten hdev hcap (by simpa using hcount) hfirst

/-- Settles O26: by what the pipeline does with the list's payload, with no count to be checked. -/
theorem buildWmImpTakesItsCountFromTheList : Obligations.BuildWmImpTakesItsCountFromTheList := by
  refine ⟨fun dev reg s values hdev hvalues hpos hcap => ?_, fun dev reg s hbad => ?_,
    fun dev reg s i hdev hcap hfirst => ?_, fun dev reg s => ?_,
    wordsRun_build (fun w ⟨hop, hfc, hcp⟩ => decode_form_buildWmImp hop hfc hcp) and_maskUncounted_iff_not⟩
  · exact buildWith_listPayload_of_values hdev hvalues hpos hcap nofun
  · rcases hbad with hdev | hlist
    · exact buildWith_of_device_gt hdev _ _ _ s
    · exact buildWith_listPayload_of_not_accepted (not_listAccepted_of_wcount hlist)
  · exact buildWith_listPayload_of_firstUnwritten hdev hcap nofun hfirst
  · exact congrArg (buildWith dev 0x10 reg · s) (listPayload_none s)

/-! ## Every BUILD word (R120, R130) -/

/-- R130: no other function code is a form. -/
theorem decode_build_of_other_fc {w : Word} (hop : opField w = 0x10) (h03 : fcField w ≠ 0x03) (h06 : fcField w ≠ 0x06)
    (h10 : fcField w ≠ 0x10) : decode w = .error (.functionCode .build (fcField w)) := by
  rw [decode_build hop, decodeBuild, if_neg h03, if_neg h06, if_neg h10]

/-- Settles O8: the decoder rejects the word, and its family is BUILD's. -/
theorem buildOfAnotherFunctionCodeIsInvalidCommand : Obligations.BuildOfAnotherFunctionCodeIsInvalidCommand := by
  intro w s hop h03 h06 h10
  rw [command_of_error (decode_build_of_other_fc hop h03 h06 h10)]
  exact congrArg Host.Outcome.next (raise_build_invalidCommand (latchCmd w s))

/-- R125 to R129: the payloads of the forms of each function code, in the state `s`. -/
inductive FormPayload (s : State) : Byte → Payload → Prop
  | read (count : Half) : FormPayload s 0x03 (readPayload count)
  | readDefault : FormPayload s 0x03 defaultReadPayload
  | single (value : Half) : FormPayload s 0x06 (singlePayload value)
  | list (count : Option Half) : FormPayload s 0x10 (listPayload count s)

/-- A word of a form fails on its reserved bits or runs the form's instruction (R75). -/
theorem command_of_buildForm {mask w : Word} {i : Instr} (hd : decode w = unlessReserved .build mask w i) (s : State) :
    command w s = .next (buildFailed { s with cmd := w }) ∨ command w s = exec i { s with cmd := w } := by
  by_cases hres : w &&& mask = 0
  · exact .inr (command_of_ok (hd.trans (unlessReserved_ok hres)) s)
  · exact .inl (command_build_of_reserved hd hres s)

/-- R120: a BUILD word is rejected as a BUILD, or runs the pipeline on its own fields with the payload of a form. -/
theorem command_build {w : Word} (hop : opField w = 0x10) (s : State) :
    command w s = .next (buildFailed { s with cmd := w }) ∨
      ∃ payload, FormPayload { s with cmd := w } (fcField w) payload ∧
        command w s = buildWith (devField w) (fcField w) (regField w) payload { s with cmd := w } := by
  by_cases h03 : fcField w = 0x03
  · rw [h03]
    cases hcp : cpField w with
    | true => exact (command_of_buildForm (decode_form_buildRd hop h03 hcp) s).imp_right fun h => ⟨_, .read _, h⟩
    | false =>
      exact (command_of_buildForm (decode_form_buildRdDef hop h03 hcp) s).imp_right fun h => ⟨_, .readDefault, h⟩
  by_cases h06 : fcField w = 0x06
  · rw [h06]
    exact (command_of_buildForm (decode_form_buildWs hop h06) s).imp_right fun h => ⟨_, .single _, h⟩
  by_cases h10 : fcField w = 0x10
  · rw [h10]
    cases hcp : cpField w with
    | true => exact (command_of_buildForm (decode_form_buildWm hop h10 hcp) s).imp_right fun h => ⟨_, .list _, h⟩
    | false => exact (command_of_buildForm (decode_form_buildWmImp hop h10 hcp) s).imp_right fun h => ⟨_, .list _, h⟩
  · exact .inl (buildOfAnotherFunctionCodeIsInvalidCommand w s hop h03 h06 h10)

/-- R120, R124: a BUILD word that answers a next state failed with exactly the failure effects, or emitted the frame of
its own fields and the payload of a form. -/
theorem command_build_next {w : Word} {s t : State} (hop : opField w = 0x10) (h : command w s = .next t) :
    t = buildFailed { s with cmd := w } ∨
      ∃ p, FormPayload { s with cmd := w } (fcField w) (.bytes p) ∧
        t = emit ([devField w, fcField w] ++ be16 (regField w) ++ p) { s with cmd := w } := by
  rcases command_build hop s with hfailed | ⟨payload, hform, hbuild⟩
  · exact .inl (Host.Outcome.next.inj (h.symm.trans hfailed))
  · rcases buildWith_next (hbuild.symm.trans h) with ⟨-, rfl⟩ | ⟨p, -, rfl, rfl⟩
    · exact .inl (raise_build_invalidCommand _)
    · exact .inr ⟨p, hform, rfl⟩

/-- Settles O27: of the two ends of `command_build_next` only the failure reports 0x0107. -/
theorem failedBuildLeavesNoFrame : Obligations.FailedBuildLeavesNoFrame := by
  intro w s t hop h hstatus
  rcases command_build_next hop h with hfailed | ⟨p, -, rfl⟩
  · exact hfailed
  · rw [emit_status] at hstatus
    exact absurd hstatus (by decide)

/-- Settles O28: a next state is one of the two ends of `command_build_next`, and only the pipeline faults. -/
theorem buildReportsFrameOrInvalidCommandOnly : Obligations.BuildReportsFrameOrInvalidCommandOnly := by
  intro w s hop
  cases h : command w s with
  | next t =>
    rcases command_build_next hop h with rfl | ⟨p, -, rfl⟩
    · exact .inl ⟨_, rfl, .inr rfl⟩
    · exact .inl ⟨_, rfl, .inl (emit_status _ _)⟩
  | fault f =>
    rcases command_build hop s with hfailed | ⟨payload, -, hbuild⟩
    · exact absurd (h.symm.trans hfailed) nofun
    · obtain ⟨i, -, rfl⟩ := buildWith_fault (hbuild.symm.trans h)
      exact .inr ⟨i, rfl⟩
  | refused r => exact absurd h (command_ne_refused w s r)

/-! ## The frame a BUILD leaves (R132) -/

theorem readPayload_bytes {count : Half} {p : List Byte} (h : readPayload count = .bytes p) : p = be16 count := by
  unfold readPayload at h
  split at h
  · cases h
  · cases h; rfl

/-- R125 to R129: the payload bytes of a form are one 16-bit value, or for 0x10 those of a list of WCOUNT values. -/
theorem FormPayload.bytes_cases {s : State} {fc : Byte} {payload : Payload} {p : List Byte}
    (h : FormPayload s fc payload) (hp : payload = .bytes p) :
    (fc ≠ 0x10 ∧ ∃ v, p = be16 v) ∨
      (fc = 0x10 ∧ s.wcount.toNat ≤ 127 ∧
        ∃ values, values.length = s.wcount.toNat ∧ p = listBytes s.wcount.toNat values) := by
  cases h with
  | read count => exact .inl ⟨by decide, count, readPayload_bytes hp⟩
  | readDefault => cases hp; exact .inl ⟨by decide, _, rfl⟩
  | single value => cases hp; exact .inl ⟨by decide, value, rfl⟩
  | list count =>
    obtain ⟨-, hcap, -, values, hread, hbytes⟩ := listPayload_bytes hp
    exact .inr ⟨rfl, hcap, values, ((suppliesValues_iff s values).mpr hread).1.symm, hbytes⟩

theorem FormPayload.length_le {s : State} {fc : Byte} {p : List Byte} (h : FormPayload s fc (.bytes p)) :
    p.length ≤ 257 := by
  rcases h.bytes_cases rfl with ⟨-, v, rfl⟩ | ⟨-, hcap, values, hlen, rfl⟩
  · simp
  · rw [listBytes_length]
    omega

/-- A field of a field of the word is a field of the word. -/
theorem extractLsb'_extractLsb' {w : Nat} (x : BitVec w) (lo : Nat) {len start n : Nat} (h : start + n ≤ len) :
    (x.extractLsb' lo len).extractLsb' start n = x.extractLsb' (lo + start) n := by
  ext i hi
  simp [show start + i < len by omega, Nat.add_assoc]

/-- REG is bytes 2 and 3 of the frame, the high byte first. -/
theorem be16_regField (w : Word) : be16 (regField w) = [w.extractLsb 47 40, w.extractLsb 39 32] := by
  rw [be16, regField, extractLsb'_extractLsb' _ _ (by decide), extractLsb'_extractLsb' _ _ (by decide)]
  rfl

/-- R82 to R84: how long the payload of a form is, and for 0x10 the count and the byte count it starts with. -/
theorem FormPayload.shape {s : State} {fc : Byte} {p : List Byte} (h : FormPayload s fc (.bytes p)) :
    (fc ≠ 0x10 → p.length = 2) ∧
      (fc = 0x10 → s.wcount.toNat ≤ 127 ∧ p.length = 3 + 2 * s.wcount.toNat ∧
        ∃ rest, p = 0 :: s.wcount :: 2 * s.wcount :: rest) := by
  have hcount : BitVec.ofNat 8 (2 * s.wcount.toNat) = 2 * s.wcount := BitVec.eq_of_toNat_eq (by simp)
  rcases h.bytes_cases rfl with ⟨hfc, v, rfl⟩ | ⟨hfc, hcap, values, hlen, rfl⟩
  · exact ⟨fun _ => rfl, fun h10 => absurd h10 hfc⟩
  · refine ⟨fun hne => absurd hfc hne, fun _ => ⟨hcap, by rw [listBytes_length, hlen], valueBytes values, ?_⟩⟩
    rw [listBytes_eq (by omega), hcount, BitVec.ofNat_toNat, BitVec.setWidth_eq]
    rfl

/-- Settles O29: the word's fields are the body's first four bytes, the payload of the form gives its length and bytes 4
to 6, and the CRC bytes follow the body. -/
theorem successfulBuildLeavesAWellFormedFrame : Obligations.SuccessfulBuildLeavesAWellFormedFrame := by
  intro w s t hop h hstatus
  rcases command_build_next hop h with rfl | ⟨p, hform, rfl⟩
  · exact absurd hstatus (by decide : (0x0107 : Half) ≠ 0x0002)
  · obtain ⟨hshort, hlist⟩ := hform.shape
    have hbody : [devField w, fcField w] ++ be16 (regField w) ++ p =
        w.extractLsb 23 16 :: w.extractLsb 15 8 :: w.extractLsb 47 40 :: w.extractLsb 39 32 :: p := by
      rw [be16_regField]; rfl
    refine ⟨frameOf _, emit_holdsFrame (requestBody_length hform.length_le) _, ?_⟩
    rw [take_frameOf, emit_crc, hbody]
    refine ⟨rfl, rfl, rfl, rfl, fun hne => ?_, fun h10 => ?_, rfl, frameWithItsOwnCrcHasResidueZero _, rfl⟩
    · simp only [frameOf_length, List.length_cons, hshort hne]
    · obtain ⟨hcap, hlen, rest, rfl⟩ := hlist h10
      refine ⟨?_, rfl, rfl, rfl, hcap⟩
      simp only [frameOf_length, List.length_cons] at hlen ⊢
      omega

/-! ## What the BUILD commands leave alone -/

/-- R123, R124: the effects of a BUILD store to OBUF only, and change CRC only on success. -/
theorem Effect.build_frame {s t : State} (h : Effect s .build t) :
    SameBuffer .ibuf s t ∧ SameBuffer .wdata s t ∧ SameBuffer .rval s t ∧ NothingFrom t.mem .obuf t.olen.toNat ∧
      SameInputs s t ∧ t.rcount = s.rcount ∧ (t.status = 0x0107 → t.crc = s.crc) := by
  cases h with
  | frame dev fc reg p hdev hfc hlen =>
    obtain ⟨⟨holen, hread⟩, -, hstatus, hrcount, hinputs, -, hibuf, hwdata, hrval⟩ :=
      emit_built (requestBody_length hlen) s
    refine ⟨hibuf, hwdata, hrval, fun i hi => ?_, hinputs, hrcount, fun hfailed => ?_⟩
    · rw [hread, List.getElem?_eq_none (holen ▸ hi), Option.map_none]
    · exact absurd (hstatus.symm.trans hfailed) (by decide)
  | buildFailed =>
    rw [raise_build_invalidCommand]
    exact ⟨fun _ => rfl, fun _ => rfl, fun _ => rfl, fun _ _ => rfl, ⟨rfl, rfl, rfl⟩, rfl, fun _ => rfl⟩

/-- Settles O45: the five forms are of the kind whose effect `Effect.build_frame` describes. -/
theorem frameOfTheBuildCommands : Obligations.FrameOfTheBuildCommands := by
  intro i s t hi h
  have hkind : kindOf i = .build := by
    rcases hi with ⟨dev, reg, count, rfl⟩ | ⟨dev, reg, rfl⟩ | ⟨dev, reg, value, rfl⟩ | ⟨dev, reg, count, rfl⟩ |
      ⟨dev, reg, rfl⟩ <;> rfl
  obtain ⟨hibuf, hwdata, hrval, hobuf, hinputs, hrcount, hcrc⟩ := Effect.build_frame (hkind ▸ exec_effect h)
  exact ⟨hibuf, hwdata, hrval, hobuf, hinputs, exec_sameRun h, hrcount, hcrc⟩

end Sys2Proof.Machine
end

section
/-! PROOFS. The statements about the response parser (spec/42_parse.md): the forms of PARSE and their words, the checks
of R150 one by one, what the decode steps leave, failures, round trips, a corrupted byte, and what the commands leave
alone. -/

namespace Sys2Proof.Machine

/-! ## The forms of PARSE (R74, R151 to R153) -/

/-- Each PARSE instruction with its function code and its decode step. -/
inductive ParseForm : Instr → Byte → (List Byte → State → State) → Prop
  | read : ParseForm .parseRd 0x03 decodeReadResponse
  | single : ParseForm .parseWs 0x06 decodeWriteResponse
  | list : ParseForm .parseWm 0x10 decodeWriteResponse

section
variable {i : Instr} {fc : Byte} {decodeFrame : List Byte → State → State}

theorem exists_parseForm (h : i = .parseRd ∨ i = .parseWs ∨ i = .parseWm) :
    ∃ fc decodeFrame, ParseForm i fc decodeFrame := by
  rcases h with rfl | rfl | rfl
  · exact ⟨_, _, .read⟩
  · exact ⟨_, _, .single⟩
  · exact ⟨_, _, .list⟩

theorem ParseForm.exec_eq (h : ParseForm i fc decodeFrame) (s : State) : exec i s = parseWith fc decodeFrame s := by
  cases h with
  | read | single | list => rfl

theorem ParseForm.kindOf_eq (h : ParseForm i fc decodeFrame) : kindOf i = .parse := by
  cases h with
  | read | single | list => rfl

theorem ParseForm.decode_eq (h : ParseForm i fc decodeFrame) {w : Word} (hop : opField w = 0x20)
    (hfc : fcField w = fc) : decode w = unlessReserved .parse maskP w i := by
  cases h with
  | read => exact decode_form_parseRd hop hfc
  | single => exact decode_form_parseWs hop hfc
  | list => exact decode_form_parseWm hop hfc

/-- R75: the words of a PARSE form. -/
theorem ParseForm.wordsRun (h : ParseForm i fc decodeFrame) :
    WordsRun (fun w => opField w = 0x20 ∧ fcField w = fc) (fun w => w.extractLsb' 16 48 ≠ 0) (fun _ => i)
      (fun s => parseFailed 0x0107 s.crc s) :=
  wordsRun_of_form (fun _ ⟨hop, hfc⟩ => h.decode_eq hop hfc) (fun w => (and_maskP w).trans not_not.symm)
    raise_parse_invalidCommand

/-- A word of a form fails on its reserved bits or runs the pipeline of the form. -/
theorem ParseForm.command_eq (h : ParseForm i fc decodeFrame) {w : Word} (hop : opField w = 0x20)
    (hfc : fcField w = fc) (s : State) :
    command w s = .next (parseFailed 0x0107 s.crc { s with cmd := w }) ∨
      command w s = parseWith fc decodeFrame { s with cmd := w } := by
  obtain ⟨hclear, hset⟩ := h.wordsRun w s ⟨hop, hfc⟩
  by_cases hres : w.extractLsb' 16 48 = 0
  · exact .inr ((hclear (not_not.mpr hres)).trans (h.exec_eq _))
  · exact .inl (hset hres)

end

/-- R154: no other function code is a form. -/
theorem decode_parse_of_other_fc {w : Word} (hop : opField w = 0x20) (h03 : fcField w ≠ 0x03) (h06 : fcField w ≠ 0x06)
    (h10 : fcField w ≠ 0x10) : decode w = .error (.functionCode .parse (fcField w)) := by
  rw [decode_parse hop, decodeParse, if_neg h03, if_neg h06, if_neg h10]

/-- Settles O9: the decoder rejects the word, and its family is PARSE's. -/
theorem parseOfAnotherFunctionCodeIsInvalidCommand : Obligations.ParseOfAnotherFunctionCodeIsInvalidCommand := by
  intro w s hop h03 h06 h10
  rw [command_of_error (decode_parse_of_other_fc hop h03 h06 h10)]
  exact congrArg Host.Outcome.next (raise_parse_invalidCommand (latchCmd w s))

/-- R74, R154: a PARSE word fails as a PARSE, or runs the pipeline of the form that its function code selects. -/
theorem command_parse {w : Word} (hop : opField w = 0x20) (s : State) :
    command w s = .next (parseFailed 0x0107 s.crc { s with cmd := w }) ∨
      ∃ i decodeFrame, ParseForm i (fcField w) decodeFrame ∧
        command w s = parseWith (fcField w) decodeFrame { s with cmd := w } := by
  by_cases h03 : fcField w = 0x03
  · rw [h03]
    exact (ParseForm.read.command_eq hop h03 s).imp_right fun h => ⟨_, _, .read, h⟩
  by_cases h06 : fcField w = 0x06
  · rw [h06]
    exact (ParseForm.single.command_eq hop h06 s).imp_right fun h => ⟨_, _, .single, h⟩
  by_cases h10 : fcField w = 0x10
  · rw [h10]
    exact (ParseForm.list.command_eq hop h10 s).imp_right fun h => ⟨_, _, .list, h⟩
  · exact .inl (parseOfAnotherFunctionCodeIsInvalidCommand w s hop h03 h06 h10)

/-! ## Failures (R156) -/

theorem raise_parse_eq (e : ErrorKind) (s : State) : raise .parse e s = parseFailed (errorStatus e) s.crc s := by
  rw [raise_parse, dropValues, invalidateFrom_zero, setStatus, parseFailed]

theorem raise_parse_setCrc (e : ErrorKind) (c : Half) (s : State) :
    raise .parse e (setCrc c s) = parseFailed (errorStatus e) c s :=
  raise_parse_eq e (setCrc c s)

/-! ## The bytes of a response -/

theorem read_ibuf_eq_some_iff {m : Memory} {k : Nat} {b : Byte} :
    m.read .ibuf k = some (.bits8 b) ↔ readCell m.ibuf k = some b := by
  simp

/-- R107: the CRC received as two bytes, on numbers. -/
theorem toNat_crcOfBytes (lo hi : Byte) : (crcOfBytes lo hi).toNat = lo.toNat + 256 * hi.toNat := by
  have hhi : hi.toNat <<< 8 < 2 ^ 16 := Nat.shiftLeft_lt hi.isLt
  rw [crcOfBytes, BitVec.toNat_or, BitVec.toNat_shiftLeft, BitVec.toNat_setWidth_of_le (by decide),
    BitVec.toNat_setWidth_of_le (by decide), Nat.mod_eq_of_lt hhi, Nat.or_comm,
    ← Nat.shiftLeft_add_eq_or_of_lt lo.isLt, Nat.shiftLeft_eq]
  omega

theorem crcOfBytes_lowByte_highByte (c : Half) : crcOfBytes (lowByte c) (highByte c) = c := crcOfBytes_crcBytes c

theorem HoldsInput.readCell {s : State} {bytes : List Byte} (h : HoldsInput s bytes) {k : Nat} {b : Byte}
    (hk : bytes[k]? = some b) : readCell s.mem.ibuf k = some b := by
  obtain ⟨hlt, -⟩ := List.getElem?_eq_some_iff.mp hk
  rw [← read_ibuf_eq_some_iff, h.2 k hlt, hk, Option.map_some]

/-- Elements that all hold a value can be read. -/
theorem exists_readCells_of_isSome {width : Nat} {c : Cells width} {n : Nat}
    (h : ∀ k, k < n → (readCell c k).isSome = true) : ∃ vs, readCells c 0 n = .ok vs := by
  cases hread : readCells c 0 n with
  | ok vs => exact ⟨vs, rfl⟩
  | error j =>
    obtain ⟨hlt, hnone⟩ := readCells_error_unwritten hread
    simpa [hnone] using h j hlt

/-! ## The checks of R150, one by one -/

section
variable {i : Instr} {fc : Byte} {decodeFrame : List Byte → State → State} {s : State}

theorem parseWith_of_short (h : s.ilen.toNat < 5) :
    parseWith fc decodeFrame s = .next (parseFailed 0x0207 s.crc s) := by
  rw [parseWith, if_pos h, raise_parse_eq, errorStatus_invalidResponse]

/-- Check 3 on an input that is all there compares its last two bytes with the CRC of the others. -/
theorem checkCrc_of_holdsInput {body : List Byte} {lo hi : Byte} (h : HoldsInput s (body ++ [lo, hi])) :
    checkCrc s.ilen.toNat decodeFrame s =
      if crcOfBytes lo hi = crc16 body then .next (decodeFrame body (setCrc (crc16 body) s))
      else .next (parseFailed 0x0307 (crc16 body) s) := by
  have hlen : s.ilen.toNat = body.length + 2 := by simpa using h.1
  have hbody : readCells s.mem.ibuf 0 body.length = .ok body :=
    (readCells_eq_ok_iff _ _ _ _).mpr ⟨rfl, fun k hk => by
      rw [Nat.zero_add, List.getElem?_eq_getElem hk]
      exact h.readCell (by rw [List.getElem?_append_left hk, List.getElem?_eq_getElem hk])⟩
  have hlo : readCell s.mem.ibuf body.length = some lo := h.readCell (by simp)
  have hhi : readCell s.mem.ibuf (body.length + 1) = some hi := h.readCell (by simp)
  simp only [checkCrc, hlen, Nat.add_sub_cancel, show body.length + 2 - 1 = body.length + 1 from rfl, hbody, hlo, hhi,
    raise_parse_setCrc, errorStatus_crcCheckFailed]

section
variable (h5 : 5 ≤ s.ilen.toNat)
include h5

theorem parseWith_of_echo_unwritten (hecho : readCell s.mem.ibuf 1 = none) :
    parseWith fc decodeFrame s = .fault (.unwrittenRead .ibuf 1) := by
  rw [parseWith, if_neg (Nat.not_lt.mpr h5), hecho]

theorem parseWith_of_echo_ne {b : Byte} (hecho : readCell s.mem.ibuf 1 = some b) (hne : b ≠ fc) :
    parseWith fc decodeFrame s = .next (parseFailed 0x0207 s.crc s) := by
  simp only [parseWith, if_neg (Nat.not_lt.mpr h5), hecho, if_neg hne, raise_parse_eq, errorStatus_invalidResponse]

theorem parseWith_of_echo (hecho : readCell s.mem.ibuf 1 = some fc) :
    parseWith fc decodeFrame s = checkCrc s.ilen.toNat decodeFrame s := by
  simp only [parseWith, if_neg (Nat.not_lt.mpr h5), hecho, if_true]

/-- R53: check 3 reads the bytes before the last two, then these, and so faults on the first that holds no value. -/
theorem checkCrc_of_firstUnwritten {k : Nat} (h : FirstUnwritten s .ibuf s.ilen.toNat k) :
    checkCrc s.ilen.toNat decodeFrame s = .fault (.unwrittenRead .ibuf k) := by
  obtain ⟨hlt, hnone, hbefore⟩ := h
  simp only [read_ibuf, Option.map_eq_none_iff, Option.isSome_map] at hnone hbefore
  by_cases hbody : k < s.ilen.toNat - 2
  · have hread : readCells s.mem.ibuf 0 (s.ilen.toNat - 2) = .error k :=
      (readCells_eq_error_iff _ _ _ _).mpr ⟨by omega, by omega, hnone, fun j _ => hbefore j⟩
    simp only [checkCrc, hread]
  · obtain ⟨body, hread⟩ := exists_readCells_of_isSome (n := s.ilen.toNat - 2) fun j hj => hbefore j (by omega)
    obtain rfl | rfl : k = s.ilen.toNat - 2 ∨ k = s.ilen.toNat - 1 := by omega
    · simp only [checkCrc, hread, hnone]
    · obtain ⟨lo, hlo⟩ := Option.isSome_iff_exists.mp (hbefore (s.ilen.toNat - 2) (by omega))
      simp only [checkCrc, hread, hlo, hnone]

theorem parseWith_of_crc_ne (hecho : readCell s.mem.ibuf 1 = some fc) {body : List Byte} {lo hi : Byte}
    (h : HoldsInput s (body ++ [lo, hi])) (hcrc : crcOfBytes lo hi ≠ crc16 body) :
    parseWith fc decodeFrame s = .next (parseFailed 0x0307 (crc16 body) s) := by
  rw [parseWith_of_echo h5 hecho, checkCrc_of_holdsInput h, if_neg hcrc]

end

/-- R150: a frame of the form's function code with its own CRC reaches the decode step. -/
theorem parseWith_of_frame {addr : Byte} {rest : List Byte} (hrest : 1 ≤ rest.length)
    (h : HoldsInput s (frameOf (addr :: fc :: rest))) :
    parseWith fc decodeFrame s =
      .next (decodeFrame (addr :: fc :: rest) (setCrc (crc16 (addr :: fc :: rest)) s)) := by
  have h5 : 5 ≤ s.ilen.toNat := by
    rw [h.1, frameOf_length, List.length_cons, List.length_cons]
    omega
  rw [parseWith_of_echo h5 (h.readCell rfl), checkCrc_of_holdsInput h, if_pos (crcOfBytes_lowByte_highByte _)]

/-- R150: the checks of every form, in their order. -/
theorem ParseForm.checks (hform : ParseForm i fc decodeFrame) : ParseChecks i fc := by
  refine ⟨fun s hshort => ?_, fun s h5 hnone => ?_, fun s b h5 hecho hne => ?_, fun s k h5 hecho hfirst => ?_,
    fun s body lo hi hin h3 hecho hcrc => ?_⟩ <;> rw [hform.exec_eq]
  · exact parseWith_of_short hshort
  · exact parseWith_of_echo_unwritten h5 (by simpa using hnone)
  · exact parseWith_of_echo_ne h5 (read_ibuf_eq_some_iff.mp hecho) hne
  · rw [parseWith_of_echo h5 (read_ibuf_eq_some_iff.mp hecho), checkCrc_of_firstUnwritten h5 hfirst]
  · have h5 : 5 ≤ s.ilen.toNat := by
      rw [hin.1, List.length_append]
      exact Nat.add_le_add_right h3 2
    have hfc : (body ++ [lo, hi])[1]? = some fc := by rwa [List.getElem?_append_left (by omega)]
    refine parseWith_of_crc_ne h5 (hin.readCell hfc) hin fun heq => hcrc ?_
    rw [← toNat_crcOfBytes, heq]

/-! ## What the decode steps leave (R151 to R153) -/

theorem decodeWriteResponse_parsed (body : List Byte) (c : Half) (s : State) :
    Parsed 0x0003 c [] s (decodeWriteResponse body (setCrc c s)) :=
  ⟨⟨rfl, fun k => by simp [decodeWriteResponse, finish_eq]⟩, rfl, decodeWriteResponse_status _ _, rfl, ⟨rfl, rfl, rfl⟩,
    ⟨rfl, rfl, rfl, rfl, rfl, rfl⟩, fun _ => rfl, fun _ => rfl, fun _ => rfl⟩

/-- R35, R151: stored values are what host reads find, if RCOUNT can hold their number. -/
theorem storeValues_parsed {values : List Half} (hlen : values.length < 2 ^ 16) (c : Half) (s : State) :
    Parsed 0x0004 c values s (finish .values (storeValues values (setCrc c s))) :=
  ⟨⟨Nat.mod_eq_of_lt hlen, fun k => by simp [finish_eq]⟩, rfl, successStatus_values', rfl, ⟨rfl, rfl, rfl⟩,
    ⟨rfl, rfl, rfl, rfl, rfl, rfl⟩, fun _ => rfl, fun _ => rfl, fun _ => rfl⟩

theorem decodeReadResponse_of_odd {field : List Byte} (hodd : field.length % 2 = 1) (a b c : Byte) (s : State) :
    decodeReadResponse ([a, b, c] ++ field) s = parseFailed 0x0207 s.crc s := by
  have hlen : ([a, b, c] ++ field).length - 3 = field.length := by simp
  rw [decodeReadResponse, if_pos (hlen ▸ hodd), raise_parse_eq, errorStatus_invalidResponse]

theorem valueBytes_length (values : List Half) : (valueBytes values).length = 2 * values.length := by
  rw [← pack_eq_valueBytes, pack_length]

theorem decodeReadResponse_of_values (values : List Half) (a b c : Byte) (s : State) :
    decodeReadResponse ([a, b, c] ++ valueBytes values) s = finish .values (storeValues values s) := by
  have hlen : ([a, b, c] ++ valueBytes values).length - 3 = 2 * values.length := by simp [valueBytes_length]
  have hpairs : pairValues (([a, b, c] ++ valueBytes values).drop 3) = values := by
    show pairValues (valueBytes values) = values
    rw [← pack_eq_valueBytes, pairValues_pack]
  rw [decodeReadResponse, if_neg (by omega), hpairs]

/-! ## The PARSE commands on good frames -/

/-- R151: the values of a good read response, whatever its address and ByteCount. -/
theorem exec_parseRd_of_values {addr byteCount : Byte} {values : List Half}
    (h : HoldsInput s (frameOf ([addr, 0x03, byteCount] ++ valueBytes values))) :
    ∃ t, exec .parseRd s = .next t ∧
      Parsed 0x0004 (crc16 ([addr, 0x03, byteCount] ++ valueBytes values)) values s t := by
  have hlen : values.length < 2 ^ 16 := by
    have hilen := h.1
    simp only [frameOf_length, List.length_append, valueBytes_length] at hilen
    omega
  refine ⟨_, ?_, storeValues_parsed hlen _ s⟩
  rw [ParseForm.read.exec_eq, ← decodeReadResponse_of_values values addr 0x03 byteCount]
  exact parseWith_of_frame (Nat.le_add_left 1 _) h

/-- R151: a field of odd length is found after the CRC check. -/
theorem exec_parseRd_of_odd {addr byteCount : Byte} {field : List Byte} (hodd : field.length % 2 = 1)
    (h : HoldsInput s (frameOf ([addr, 0x03, byteCount] ++ field))) :
    exec .parseRd s = .next (parseFailed 0x0207 (crc16 ([addr, 0x03, byteCount] ++ field)) s) := by
  refine (parseWith_of_frame (Nat.le_add_left 1 _) h).trans (congrArg Host.Outcome.next ?_)
  exact decodeReadResponse_of_odd hodd addr 0x03 byteCount _

/-- R152, R153: a write response is accepted whatever follows its function code. -/
theorem exec_parse_of_writeResponse (hform : ParseForm i fc decodeWriteResponse) {addr : Byte} {rest : List Byte}
    (hrest : 1 ≤ rest.length) (h : HoldsInput s (frameOf ([addr, fc] ++ rest))) :
    ∃ t, exec i s = .next t ∧ Parsed 0x0003 (crc16 ([addr, fc] ++ rest)) [] s t :=
  ⟨_, (hform.exec_eq s).trans (parseWith_of_frame hrest h), decodeWriteResponse_parsed _ _ s⟩

end

/-- R35, R151: RCOUNT after a PARSE that reports values. -/
theorem Effect.values_rcount {s t : State} (h : Effect s .parse t) (hstatus : t.status = 0x0004) :
    2 * t.rcount.toNat + 5 = s.ilen.toNat := by
  cases h with
  | badResponse | badField | badCrc | success => simp at hstatus
  | values body hbody vs hlen =>
    obtain ⟨⟨hrcount, -⟩, -⟩ := storeValues_parsed (show vs.length < 2 ^ 16 by omega) (crc16 body) s
    rw [hrcount, hlen]

/-- Settles O30: the checks and the words are those of every form; a good frame reaches the decode step, whose field is
even or odd. -/
theorem parseRdDecodesTheValues : Obligations.ParseRdDecodesTheValues := by
  refine ⟨ParseForm.read.checks, fun _ _ _ _ => exec_parseRd_of_values, fun _ _ _ _ => exec_parseRd_of_odd,
    fun s t h hstatus => ?_, ParseForm.read.wordsRun⟩
  have hrcount := (exec_effect h).values_rcount hstatus
  refine ⟨by omega, fun hcap => ?_⟩
  rw [Config.rvalCap]
  omega

/-- Settles O31: the checks and the words are those of every form, and every good frame is accepted. -/
theorem parseWsAcceptsTheEcho : Obligations.ParseWsAcceptsTheEcho :=
  ⟨ParseForm.single.checks, fun _ _ _ => exec_parse_of_writeResponse .single, ParseForm.single.wordsRun⟩

/-- Settles O32: the checks and the words are those of every form, and every good frame is accepted. -/
theorem parseWmAcceptsTheEcho : Obligations.ParseWmAcceptsTheEcho :=
  ⟨ParseForm.list.checks, fun _ _ _ => exec_parse_of_writeResponse .list, ParseForm.list.wordsRun⟩

/-! ## Failed PARSE words (R156) -/

section
variable {i : Instr} {fc : Byte} {decodeFrame : List Byte → State → State} (hform : ParseForm i fc decodeFrame)
include hform

/-- R27: a decode step leaves CRC alone. -/
theorem ParseForm.decode_crc (body : List Byte) (s : State) : (decodeFrame body s).crc = s.crc := by
  cases hform with
  | read => exact decodeReadResponse_crc body s
  | single | list => exact decodeWriteResponse_crc body s

/-- R151 to R153: a decode step accepts, or it fails with the failure effects. -/
theorem ParseForm.decode_cases (body : List Byte) (s : State) :
    (decodeFrame body s).status = 0x0004 ∨ (decodeFrame body s).status = 0x0003 ∨
      decodeFrame body s = raise .parse .invalidResponse s := by
  cases hform with
  | read =>
    unfold decodeReadResponse
    split
    · exact .inr (.inr rfl)
    · exact .inl successStatus_values'
  | single | list => exact .inr (.inl (decodeWriteResponse_status body s))

/-- R150, R156: a PARSE instruction accepts, or it leaves the failure effects of an error other than InvalidCommand. -/
theorem ParseForm.next_cases {s t : State} (h : parseWith fc decodeFrame s = .next t) :
    t.status = 0x0004 ∨ t.status = 0x0003 ∨ (t = parseFailed t.status t.crc s ∧ t.status ≠ 0x0107) := by
  rcases parseWith_next h with rfl | ⟨body, -, -, rfl | rfl⟩
  · exact .inr (.inr ⟨raise_parse_eq _ s, by simp⟩)
  · exact .inr (.inr ⟨raise_parse_setCrc _ _ s, by simp⟩)
  · rcases hform.decode_cases body (setCrc (crc16 body) s) with hvalues | hsuccess | hfailed
    · exact .inl hvalues
    · exact .inr (.inl hsuccess)
    · rw [hfailed]
      exact .inr (.inr ⟨raise_parse_setCrc _ _ s, by simp⟩)

end

/-- Settles O33: a rejected word leaves CRC alone; otherwise the pipeline failed (`ParseForm.next_cases`), and
`parseWith_crc` says when it wrote CRC. -/
theorem failedParseLeavesNoValues : Obligations.FailedParseLeavesNoValues := by
  intro w s t hop h herr
  rcases command_parse hop s with hrejected | ⟨i, decodeFrame, hform, hrun⟩
  · cases h.symm.trans hrejected
    exact ⟨rfl, fun _ => rfl, fun hne => absurd rfl hne⟩
  · have hpipe := hrun.symm.trans h
    rcases hform.next_cases hpipe with hvalues | hsuccess | ⟨hfailed, hne⟩
    · simp [hvalues] at herr
    · simp [hsuccess] at herr
    · refine ⟨hfailed, ?_⟩
      rcases parseWith_crc hform.decode_crc hpipe with ⟨h5, hecho, hbytes⟩ | ⟨hnot, hcrc⟩
      · refine ⟨fun hearly => ?_, fun _ _ _ => hbytes⟩
        exact absurd hecho ((hearly.resolve_left hne).resolve_left (Nat.not_lt.mpr h5))
      · refine ⟨fun _ => hcrc, fun _ h5 hecho => ?_⟩
        exact absurd hecho (hnot.resolve_left (Nat.not_lt.mpr h5))

/-! ## Round trips (R158) -/

/-- A state whose input is the frame in another state's OBUF holds that frame. -/
theorem HoldsFrame.holdsInput {t u : State} {f : List Byte} (h : HoldsFrame t f) (hlen : u.ilen = t.olen)
    (hread : ∀ k, k < t.olen.toNat → u.mem.read .ibuf k = t.mem.read .obuf k) : HoldsInput u f := by
  obtain ⟨holen, hframe⟩ := h
  exact ⟨hlen ▸ holen, fun k hk => (hread k (holen ▸ hk)).trans (hframe k)⟩

/-- R120: a BUILD that succeeds has put the frame of its payload's bytes in OBUF. -/
theorem FormPayload.holdsFrame {s t : State} {dev fc : Byte} {reg : Half} {payload : Payload}
    (hform : FormPayload s fc payload) (h : buildWith dev fc reg payload s = .next t) (hstatus : t.status = 0x0002) :
    ∃ p, FormPayload s fc (.bytes p) ∧ HoldsFrame t (frameOf ([dev, fc] ++ be16 reg ++ p)) := by
  rcases buildWith_next h with ⟨-, rfl⟩ | ⟨p, -, rfl, rfl⟩
  · simp at hstatus
  · exact ⟨p, hform, emit_holdsFrame (requestBody_length hform.length_le) s⟩

/-- R158 (a): the echo of a write request is accepted. -/
theorem exec_parse_of_writeEcho {i : Instr} {fc : Byte} (hparse : ParseForm i fc decodeWriteResponse) {s t u : State}
    {dev : Byte} {reg : Half} {payload : Payload} (hform : FormPayload s fc payload)
    (h : buildWith dev fc reg payload s = .next t) (hstatus : t.status = 0x0002) (hlen : u.ilen = t.olen)
    (hread : ∀ k, k < t.olen.toNat → u.mem.read .ibuf k = t.mem.read .obuf k) :
    ∃ v, exec i u = .next v ∧ v.status = 0x0003 := by
  obtain ⟨p, -, hframe⟩ := hform.holdsFrame h hstatus
  obtain ⟨v, hv, hparsed⟩ := exec_parse_of_writeResponse hparse (Nat.le_add_left 1 _)
    (hframe.holdsInput hlen hread : HoldsInput u (frameOf ([dev, fc] ++ (be16 reg ++ p))))
  obtain ⟨-, -, hsuccess, -⟩ := hparsed
  exact ⟨v, hv, hsuccess⟩

/-- R158 (c): the echo of a read request has a field of three bytes. -/
theorem exec_parseRd_of_readEcho {s t u : State} {dev : Byte} {reg : Half} {payload : Payload}
    (hform : FormPayload s 0x03 payload) (h : buildWith dev 0x03 reg payload s = .next t) (hstatus : t.status = 0x0002)
    (hlen : u.ilen = t.olen) (hread : ∀ k, k < t.olen.toNat → u.mem.read .ibuf k = t.mem.read .obuf k) :
    ∃ v, exec .parseRd u = .next v ∧ v.status = 0x0207 := by
  obtain ⟨p, hbytes, hframe⟩ := hform.holdsFrame h hstatus
  have hp : p.length = 2 := hbytes.shape.1 (by decide)
  have hin : HoldsInput u (frameOf ([dev, 0x03, highByte reg] ++ (lowByte reg :: p))) := hframe.holdsInput hlen hread
  exact ⟨_, exec_parseRd_of_odd (by rw [List.length_cons, hp]) hin, rfl⟩

/-- Settles O34: the frame in OBUF is that of the form's payload, and its echo is an input with its own CRC. -/
theorem builtFramesRoundTripThroughParse : Obligations.BuiltFramesRoundTripThroughParse := by
  refine ⟨fun dev reg value s t u h => exec_parse_of_writeEcho .single (.single value) h,
    fun i dev reg count s t u hi h => ?_, fun addr values u hin => ?_, fun i dev reg count s t u hi h => ?_⟩
  · rcases hi with rfl | rfl
    · exact exec_parse_of_writeEcho .list (.list (some count)) h
    · exact exec_parse_of_writeEcho .list (.list none) h
  · obtain ⟨v, hv, hvalues, -, hstatus, -⟩ := exec_parseRd_of_values hin
    exact ⟨v, hv, hstatus, hvalues⟩
  · rcases hi with rfl | rfl
    · exact exec_parseRd_of_readEcho (.read count) h
    · exact exec_parseRd_of_readEcho .readDefault h

/-! ## One corrupted byte (R159) -/

theorem crc16_set_ne {body : List Byte} {k : Nat} {a b : Byte} (ha : body[k]? = some a) (hab : a ≠ b) :
    crc16 (body.set k b) ≠ crc16 body := by
  obtain ⟨hlt, rfl⟩ := List.getElem?_eq_some_iff.mp ha
  have hsplit : body = body.take k ++ body[k] :: body.drop (k + 1) := by simp
  rw [List.set_eq_take_append_cons_drop, if_pos hlt]
  conv_rhs => rw [hsplit]
  exact (oneChangedByteChangesTheCrc _ _ _ _ hab).symm

/-- R159: a byte replaced in a frame with its own CRC, in the body or in the CRC, leaves the two different. -/
theorem set_frame_crc_ne {body : List Byte} {lo hi a b : Byte} {k : Nat} (hcrc : crcOfBytes lo hi = crc16 body)
    (ha : (body ++ [lo, hi])[k]? = some a) (hab : a ≠ b) :
    ∃ body' lo' hi', (body ++ [lo, hi]).set k b = body' ++ [lo', hi'] ∧ crcOfBytes lo' hi' ≠ crc16 body' := by
  by_cases hk : k < body.length
  · rw [List.getElem?_append_left hk] at ha
    exact ⟨_, lo, hi, List.set_append_left k b hk, hcrc ▸ (crc16_set_ne ha hab).symm⟩
  · have hlt : k < body.length + 2 := by simpa using (List.getElem?_eq_some_iff.mp ha).1
    obtain rfl | rfl : k = body.length ∨ k = body.length + 1 := by omega
    · refine ⟨body, b, hi, by simp, fun heq => hab ?_⟩
      have hlo := (crcOfBytes_injective (heq.trans hcrc.symm)).1
      simpa [hlo] using ha.symm
    · refine ⟨body, lo, b, by simp, fun heq => hab ?_⟩
      have hhi := (crcOfBytes_injective (heq.trans hcrc.symm)).2
      simpa [hhi] using ha.symm

/-- An input that differs from another in one byte. -/
theorem HoldsInput.set {s s' : State} {bytes : List Byte} {k : Nat} {b : Byte} (h : HoldsInput s bytes)
    (hlen : s'.ilen = s.ilen) (hb : s'.mem.read .ibuf k = some (.bits8 b))
    (hsame : ∀ j, j ≠ k → s'.mem.read .ibuf j = s.mem.read .ibuf j) : HoldsInput s' (bytes.set k b) := by
  obtain ⟨hilen, hread⟩ := h
  refine ⟨by rw [hlen, hilen, List.length_set], fun j hj => ?_⟩
  rw [List.length_set] at hj
  by_cases hjk : j = k
  · subst hjk
    rw [hb, List.getElem?_set_self hj, Option.map_some]
  · rw [hsame j hjk, hread j hj, List.getElem?_set_ne (Ne.symm hjk)]

/-- R150: a PARSE that accepts has found its function code and a CRC that matches. -/
theorem parseWith_accepted {fc : Byte} {decodeFrame : List Byte → State → State} {s t : State}
    (h : parseWith fc decodeFrame s = .next t) (hstatus : t.status = 0x0004 ∨ t.status = 0x0003) :
    5 ≤ s.ilen.toNat ∧ readCell s.mem.ibuf 1 = some fc ∧
      ∃ body lo hi, HoldsInput s (body ++ [lo, hi]) ∧ crcOfBytes lo hi = crc16 body := by
  rcases parseWith_next_checks h with ⟨-, rfl⟩ | ⟨h5, hecho, body, lo, hi, hin, ⟨hcrc, -⟩ | ⟨-, rfl⟩⟩
  · simp at hstatus
  · exact ⟨h5, hecho, body, lo, hi, hin, hcrc⟩
  · simp at hstatus

/-- Settles O35: a byte other than the function code leaves the echo good and the CRC wrong (`set_frame_crc_ne`). -/
theorem oneCorruptedByteIsDetected : Obligations.OneCorruptedByteIsDetected := by
  intro i s t s' k a b hi h hstatus hlen hk ha hb hab hsame
  obtain ⟨fc, decodeFrame, hform⟩ := exists_parseForm hi
  rw [hform.exec_eq] at h
  obtain ⟨h5, hecho, body, lo, hi, hin, hcrc⟩ := parseWith_accepted h hstatus
  have h5' : 5 ≤ s'.ilen.toNat := hlen ▸ h5
  rw [hform.exec_eq]
  by_cases hk1 : k = 1
  · subst hk1
    have hbfc : b ≠ fc := by
      rintro rfl
      exact hab (Reply.bits8.inj (Option.some.inj (ha.symm.trans (read_ibuf_eq_some_iff.mpr hecho))))
    exact ⟨_, parseWith_of_echo_ne h5' (read_ibuf_eq_some_iff.mp hb) hbfc, fun hne => absurd rfl hne, fun _ => rfl⟩
  · have hbyte : (body ++ [lo, hi])[k]? = some a := by
      have hread := (hin.2 k (hin.1 ▸ hk)).symm.trans ha
      obtain ⟨x, hx, hxa⟩ := Option.map_eq_some_iff.mp hread
      rw [hx, Reply.bits8.inj hxa]
    obtain ⟨body', lo', hi', hset, hcrc'⟩ := set_frame_crc_ne hcrc hbyte hab
    have hin' : HoldsInput s' (body' ++ [lo', hi']) := hset ▸ hin.set hlen hb hsame
    have hecho' : readCell s'.mem.ibuf 1 = some fc := by
      rw [← read_ibuf_eq_some_iff, hsame 1 (Ne.symm hk1), read_ibuf_eq_some_iff, hecho]
    exact ⟨_, parseWith_of_crc_ne h5' hecho' hin' hcrc', fun _ => rfl, fun h1 => absurd h1 hk1⟩

/-! ## What the PARSE commands leave alone -/

/-- What a PARSE stores and leaves alone, whether it accepts or fails. -/
def ParseFrame (s t : State) : Prop :=
  SameBuffer .ibuf s t ∧ SameBuffer .wdata s t ∧ SameBuffer .obuf s t ∧ NothingFrom t.mem .rval t.rcount.toNat ∧
    SameInputs s t ∧ t.olen = s.olen

theorem parseFailed_parseFrame (status crc : Half) (s : State) : ParseFrame s (parseFailed status crc s) :=
  ⟨fun _ => rfl, fun _ => rfl, fun _ => rfl, fun _ _ => rfl, ⟨rfl, rfl, rfl⟩, rfl⟩

theorem Parsed.parseFrame {status crc : Half} {values : List Half} {s t : State} (h : Parsed status crc values s t) :
    ParseFrame s t := by
  obtain ⟨⟨hrcount, hread⟩, -, -, holen, hinputs, -, hibuf, hwdata, hobuf⟩ := h
  refine ⟨hibuf, hwdata, hobuf, fun k hk => ?_, hinputs, holen⟩
  rw [hread, List.getElem?_eq_none (hrcount ▸ hk), Option.map_none]

/-- R151 to R153, R156: the effects of a PARSE store to RVAL only. -/
theorem Effect.parseFrame {s t : State} (h : Effect s .parse t) : ParseFrame s t := by
  cases h with
  | badResponse => rw [raise_parse_eq]; exact parseFailed_parseFrame _ _ s
  | badField | badCrc => rw [raise_parse_setCrc]; exact parseFailed_parseFrame _ _ s
  | values body hbody vs hlen => exact (storeValues_parsed (by omega) (crc16 body) s).parseFrame
  | success body => exact (decodeWriteResponse_parsed body (crc16 body) s).parseFrame

/-- Settles O46: the three forms are of the kind whose effect `Effect.parseFrame` describes. -/
theorem frameOfTheParseCommands : Obligations.FrameOfTheParseCommands := by
  intro i s t hi h
  obtain ⟨fc, decodeFrame, hform⟩ := exists_parseForm hi
  obtain ⟨hibuf, hwdata, hobuf, hrval, hinputs, holen⟩ := Effect.parseFrame (hform.kindOf_eq ▸ exec_effect h)
  exact ⟨hibuf, hwdata, hobuf, hrval, hinputs, exec_sameRun h, holen⟩

end Sys2Proof.Machine
end

section
/-! PROOFS. The statements about control (spec/43_control.md): NOP and the reserved opcodes, the word that a step runs, and
runs with and without marks. -/

namespace Sys2Proof.Machine

/-! ## Runs with marks and runs that stop (R185, R37) -/

theorem State.unmarked_iff (s : State) : s.unmarked = true ↔ s.faultMark = none ∧ s.refusalMark = none := by
  simp [State.unmarked]

/-- A step that answers a next state keeps both marks, so also their absence. -/
theorem step_unmarked {s t : State} (h : step s = .next t) : t.unmarked = s.unmarked := by
  obtain ⟨hfault, hrefusal⟩ := step_marks h
  rw [State.unmarked, hfault, hrefusal, State.unmarked]

/-- A step that stops leaves a mark (R37). -/
theorem exists_step_of_advance_unmarked {s : State} (h : (advance s).unmarked = true) : ∃ t, step s = .next t := by
  obtain ⟨hfault, hrefusal⟩ := (State.unmarked_iff _).mp h
  cases hs : step s with
  | next t => exact ⟨t, rfl⟩
  | fault f => simp [advance_faultMark_of_fault hs] at hfault
  | refused r => simp [advance_refusalMark_of_refused hs] at hrefusal

/-- A run of one more step is safe when its first step answers a next state and the rest of it is safe. -/
theorem run_succ_eq_next_iff {k : Nat} {s t : State} : Host.Core.run Sys2Proof.core (k + 1) s = .next t ↔
    ∃ u, step s = .next u ∧ Host.Core.run Sys2Proof.core k u = .next t := by
  cases hs : step s <;> simp [Host.Core.run, core, hs]

/-- A run that does not stop is the run with marks, and it leaves no mark. -/
theorem advanceBy_of_run {k : Nat} {s t : State} (h : Host.Core.run Sys2Proof.core k s = .next t) :
    advanceBy k s = t ∧ t.unmarked = s.unmarked := by
  induction k generalizing s with
  | zero => cases h; exact ⟨rfl, rfl⟩
  | succ k ih =>
    obtain ⟨u, hstep, hrun⟩ := run_succ_eq_next_iff.mp h
    obtain ⟨hend, hmarks⟩ := ih hrun
    exact ⟨by rw [advanceBy, advance_of_next hstep, hend], hmarks.trans (step_unmarked hstep)⟩

/-- A mark stays, so a run with marks that ends unmarked was unmarked at its start. -/
theorem unmarked_of_advanceBy {k : Nat} {s : State} (h : (advanceBy k s).unmarked = true) : s.unmarked = true := by
  induction k generalizing s with
  | zero => exact h
  | succ k ih =>
    have hadvance : (advance s).unmarked = true := ih h
    obtain ⟨t, hstep⟩ := exists_step_of_advance_unmarked hadvance
    rwa [advance_of_next hstep, step_unmarked hstep] at hadvance

/-- No step of a run with marks that ends unmarked stopped. -/
theorem safeRun_of_advanceBy_unmarked {k : Nat} {s : State} (h : (advanceBy k s).unmarked = true) : SafeRun k s := by
  induction k generalizing s with
  | zero => exact ⟨s, rfl⟩
  | succ k ih =>
    obtain ⟨u, hstep⟩ := exists_step_of_advance_unmarked (unmarked_of_advanceBy h)
    obtain ⟨t, hrun⟩ : SafeRun k u := ih (advance_of_next hstep ▸ h)
    exact ⟨t, run_succ_eq_next_iff.mpr ⟨u, hstep, hrun⟩⟩

/-- Settles O54: an unmarked end says that no step stopped, and a run without a stop keeps the marks. -/
theorem unmarkedRunsAreTheSafeRuns : Obligations.UnmarkedRunsAreTheSafeRuns := by
  refine fun k s hs => ⟨⟨safeRun_of_advanceBy_unmarked, ?_⟩, fun t hrun => (advanceBy_of_run hrun).1⟩
  rintro ⟨t, hrun⟩
  obtain ⟨hend, hmarks⟩ := advanceBy_of_run hrun
  rw [hend, hmarks, hs]

/-! ## NOP and the reserved opcodes (R181, R182) -/

/-- Settles O14: NOP's own equation, the commands' independence of STATUS, and the words of format N. -/
theorem nopChangesNothing : Obligations.NopChangesNothing :=
  ⟨fun _ => rfl, fun _ s v hw => command_setStatus hw v s, wordsRun_formatN fun _ => decode_form_nop⟩

/-- R182: no other opcode is a form. -/
theorem decode_of_other_op {w : Word} (h00 : opField w ≠ 0x00) (h01 : opField w ≠ 0x01) (h02 : opField w ≠ 0x02)
    (h03 : opField w ≠ 0x03) (h10 : opField w ≠ 0x10) (h20 : opField w ≠ 0x20) :
    decode w = .error (.reservedOp (opField w)) := by
  rw [decode, if_neg h00, if_neg h01, if_neg h02, if_neg h03, if_neg h10, if_neg h20]

/-- Settles O7: the decoder rejects the word, and its family is the plain one. -/
theorem reservedOpcodeIsInvalidCommand : Obligations.ReservedOpcodeIsInvalidCommand := by
  intro w s h00 h01 h02 h03 h10 h20
  rw [command_of_error (decode_of_other_op h00 h01 h02 h03 h10 h20)]
  exact congrArg Host.Outcome.next (raise_plain_invalidCommand (latchCmd w s))

/-! ## The word that a step runs (R22, R180) -/

theorem step_of_some {s : State} {e : Event} (h : s.script[s.pc]? = some e) : step s = act e (advancePc s) := by
  rw [step, h]

/-- Settles O11: the step takes the host's CMD write, which runs the decoded instruction. -/
theorem stepRunsTheDecodedInstruction : Obligations.StepRunsTheDecodedInstruction := by
  intro s w i hw hd
  calc step s = access (.writeReg .cmd w.toNat) (advancePc s) := step_of_some hw
    _ = command w (advancePc s) := access_writeReg_cmd w (advancePc s)
    _ = exec i (latchCmd w (advancePc s)) := command_of_ok hd (advancePc s)

/-- A table row of 64 bits is the whole command word (R70). -/
theorem tableWord_of_lt {w : Nat} (hw : w < 2 ^ 64) : tableWord 64 w = BitVec.ofNat 64 w := by
  rw [tableWord, Nat.mod_eq_of_lt hw]

theorem decode_of_decodeTableWord {nbits w : Nat} {i : Instr} (h : decodeTableWord nbits w = some i) :
    decode (tableWord nbits w) = .ok i := by
  unfold decodeTableWord at h
  split at h
  · cases h; assumption
  · cases h

/-- Settles O12: the placed CMD write is the action at the index, so O11 says what the step runs. -/
theorem placedWordRunsAtTheNextStep : Obligations.PlacedWordRunsAtTheNextStep := by
  intro s w i hw hd
  rw [← tableWord_of_lt hw]
  exact stepRunsTheDecodedInstruction (s.withFetchWord 64 w) (tableWord 64 w) i (getElem?_placeEvent _ _ _)
    (decode_of_decodeTableWord hd)

end Sys2Proof.Machine
end

section
/-! PROOFS. The statement about the priority of causes (spec/60_exceptions.md R203): the outcome of a command word is
the one its verdict names, form by form along the ten steps. -/

namespace Sys2Proof.Machine

/-- `o` is the outcome that the verdict names for the word `w` written to CMD in the state `s`. -/
def Verdict.Names (v : Verdict) (w : Word) (s : State) (o : Host.Outcome State Fault Refusal) : Prop :=
  match v with
  | .fault b i => o = .fault (.unwrittenRead b i)
  | .completes status => ∃ t, o = .next t ∧ t.status = status
  | .keepsStatus => o = .next { s with cmd := w }

theorem names_completes {w : Word} {s t : State} {status : Half} (h : t.status = status) :
    (Verdict.completes status).Names w s (.next t) := ⟨t, rfl, h⟩

/-! ## Elements that hold no value -/

section
variable {s : State} {b : Buffer} {n i : Nat}

/-- R53: the search names the first element that holds no value. -/
theorem firstUnwritten?_eq_some_iff : firstUnwritten? s b n = some i ↔ FirstUnwritten s b n i := by
  simp only [firstUnwritten?, FirstUnwritten, List.find?_range_eq_some, List.mem_range, Option.isNone_iff_eq_none,
    Bool.not_eq_true', Option.isNone_eq_false_iff]
  exact and_left_comm

theorem firstUnwritten?_eq_none_iff : firstUnwritten? s b n = none ↔ ∀ k, k < n → (s.mem.read b k).isSome = true := by
  simp [firstUnwritten?, Option.isSome_iff_ne_none]

end

/-! ## The words that the first three steps reject -/

section
variable {w : Word} {s : State}

/-- Step 3, which the steps before it cannot contradict. -/
theorem verdict_of_reserved (h : w &&& reservedMask w ≠ 0) : verdict w s = .completes 0x0107 := by
  unfold verdict
  rw [if_pos h]
  split_ifs <;> rfl

/-- A word of a form fails on its reserved bits; otherwise its instruction must have the outcome of the later steps. -/
theorem verdict_names_of_form {family : Family} {mask : Word} {i : Instr}
    (hd : decode w = unlessReserved family mask w i) (hmask : reservedMask w = mask)
    (hrun : w &&& reservedMask w = 0 → (verdict w s).Names w s (exec i { s with cmd := w })) :
    (verdict w s).Names w s (command w s) := by
  by_cases hclear : w &&& reservedMask w = 0
  · rw [command_of_ok (hd.trans (unlessReserved_ok (hmask ▸ hclear)))]
    exact hrun hclear
  · rw [verdict_of_reserved hclear, command_of_reserved hd (hmask ▸ hclear)]
    exact names_completes ((raise_status _ _ _).trans errorStatus_invalidCommand)

/-- Step 1. -/
theorem verdict_names_of_other_op (h : opField w ∉ [0x00, 0x01, 0x02, 0x03, 0x10, 0x20]) :
    (verdict w s).Names w s (command w s) := by
  have hverdict : verdict w s = .completes 0x0107 := if_pos h
  simp only [List.mem_cons, List.not_mem_nil, or_false, not_or] at h
  obtain ⟨h00, h01, h02, h03, h10, h20⟩ := h
  rw [hverdict, reservedOpcodeIsInvalidCommand w s h00 h01 h02 h03 h10 h20]
  exact names_completes rfl

/-- Step 2. -/
theorem verdict_of_other_fc (hop : w.extractLsb 7 0 ∈ [0x10, 0x20]) (hfc : w.extractLsb 15 8 ∉ [0x03, 0x06, 0x10]) :
    verdict w s = .completes 0x0107 := by
  unfold verdict
  rw [if_pos (And.intro hop hfc)]
  split_ifs <;> rfl

/-! ## NOP and the CRC commands -/

theorem reservedMask_formatN (hop : opField w = 0x00 ∨ opField w = 0x01 ∨ opField w = 0x03) :
    reservedMask w = maskN := by
  have hop : w.extractLsb 7 0 = 0x00 ∨ w.extractLsb 7 0 = 0x01 ∨ w.extractLsb 7 0 = 0x03 := hop
  rcases hop with hop | hop | hop <;> simp [reservedMask, hop, maskN]

theorem verdict_names_nop (hop : w.extractLsb 7 0 = 0x00) : (verdict w s).Names w s (command w s) := by
  refine verdict_names_of_form (decode_form_nop hop) (reservedMask_formatN (.inl hop)) fun hclear => ?_
  have hverdict : verdict w s = .keepsStatus := by simp [verdict, hop, hclear]
  rw [hverdict]
  rfl

theorem verdict_names_crcInit (hop : w.extractLsb 7 0 = 0x01) : (verdict w s).Names w s (command w s) := by
  refine verdict_names_of_form (decode_form_crcInit hop) (reservedMask_formatN (.inr (.inl hop))) fun hclear => ?_
  have hverdict : verdict w s = .completes 0x0001 := by simp [verdict, hop, hclear]
  rw [hverdict, exec_crcInit]
  exact names_completes rfl

theorem verdict_names_crcUpdate (hop : w.extractLsb 7 0 = 0x02) : (verdict w s).Names w s (command w s) := by
  refine verdict_names_of_form (decode_form_crcUpdate hop) (by simp [reservedMask, hop, maskU]) fun hclear => ?_
  have hverdict : verdict w s = .completes 0x0001 := by simp [verdict, hop, hclear]
  rw [hverdict, exec_crcUpdate]
  exact names_completes rfl

theorem exists_holdsInput (h : ∀ k, k < s.ilen.toNat → (s.mem.read .ibuf k).isSome = true) :
    ∃ bytes, HoldsInput s bytes := by
  simp only [holdsInput_iff]
  exact exists_readCells_of_isSome fun k hk => by simpa using h k hk

/-- Step 8 for CRC.BLOCK. -/
theorem verdict_names_crcBlock (hop : w.extractLsb 7 0 = 0x03) : (verdict w s).Names w s (command w s) := by
  refine verdict_names_of_form (decode_form_crcBlock hop) (reservedMask_formatN (.inr (.inr hop))) fun hclear => ?_
  cases hfirst : firstUnwritten? s .ibuf s.ilen.toNat with
  | some i =>
    have hverdict : verdict w s = .fault .ibuf i := by simp [verdict, hop, hclear, hfirst]
    rw [hverdict]
    exact exec_crcBlock_of_firstUnwritten (firstUnwritten?_eq_some_iff.mp hfirst)
  | none =>
    have hverdict : verdict w s = .completes 0x0001 := by simp [verdict, hop, hclear, hfirst]
    obtain ⟨bytes, hbytes⟩ := exists_holdsInput (s := { s with cmd := w }) (firstUnwritten?_eq_none_iff.mp hfirst)
    rw [hverdict, exec_crcBlock_of_holdsInput hbytes]
    exact names_completes rfl

/-! ## BUILD (steps 4 and 5) -/

section
variable (hop : w.extractLsb 7 0 = 0x10) (hclear : w &&& reservedMask w = 0)
include hop hclear

/-- Step 4. Step 2, which comes first, reports the same, so the function code need not be known. -/
theorem verdict_build_of_illegal (h : buildOperandsIllegal w s = true) : verdict w s = .completes 0x0107 := by
  simp [verdict, hop, hclear, h]

/-- Step 5. -/
theorem verdict_build_of_unwritten {i : Nat} (h : ¬buildOperandsIllegal w s = true) (h10 : w.extractLsb 15 8 = 0x10)
    (hi : FirstUnwritten s .wdata s.wcount.toNat i) : verdict w s = .fault .wdata i := by
  simp [verdict, hop, hclear, h, h10, firstUnwritten?_eq_some_iff.mpr hi]

theorem verdict_build_of_written (hfc : w.extractLsb 15 8 ∈ [0x03, 0x06, 0x10]) (h : ¬buildOperandsIllegal w s = true)
    (hwritten : w.extractLsb 15 8 = 0x10 → ∀ k, k < s.wcount.toNat → (s.mem.read .wdata k).isSome = true) :
    verdict w s = .completes 0x0002 := by
  simp only [List.mem_cons, List.not_mem_nil, or_false] at hfc
  rcases hfc with hfc | hfc | hfc
  · simp [verdict, hop, hclear, h, hfc]
  · simp [verdict, hop, hclear, h, hfc]
  · simp [verdict, hop, hclear, h, hfc, firstUnwritten?_eq_none_iff.mpr (hwritten hfc)]

end

theorem FormPayload.fc_mem {fc : Byte} {payload : Payload} (h : FormPayload s fc payload) :
    fc ∈ [0x03, 0x06, 0x10] := by
  cases h with
  | read | readDefault | single | list => simp

/-- R53, R129: an accepted list that is not all there names its first element without a value. -/
theorem listPayload_firstUnwritten {count : Option Half} {i : Nat} (h : listPayload count s = .unwritten i) :
    FirstUnwritten s .wdata s.wcount.toNat i := by
  have haccepted : ListAccepted count s := by
    by_contra hnot
    cases h.symm.trans (listPayload_of_not_accepted hnot)
  cases hread : readCells s.mem.wdata 0 s.wcount.toNat with
  | ok values => cases h.symm.trans (listPayload_of_read haccepted hread)
  | error j =>
    cases h.symm.trans (listPayload_of_read_error haccepted hread)
    exact (firstUnwritten_wdata_iff s _ i).mpr hread

/-- R125 to R129: of the forms' payloads only a value list reads WDATA. -/
theorem FormPayload.firstUnwritten {fc : Byte} {payload : Payload} {i : Nat} (h : FormPayload s fc payload)
    (hi : payload = .unwritten i) : fc = 0x10 ∧ FirstUnwritten s .wdata s.wcount.toNat i := by
  cases h with
  | read count => exact absurd hi (readPayload_ne_unwritten count i)
  | readDefault | single => cases hi
  | list count => exact ⟨rfl, listPayload_firstUnwritten hi⟩

/-- R129: the payload of a value list has read all of it. -/
theorem listPayload_written {count : Option Half} {p : List Byte} (h : listPayload count s = .bytes p) {k : Nat}
    (hk : k < s.wcount.toNat) : (s.mem.read .wdata k).isSome = true := by
  obtain ⟨-, -, -, values, hread, -⟩ := listPayload_bytes h
  obtain ⟨hlen, hvalues⟩ := (suppliesValues_iff s values).mpr hread
  have hlt : k < values.length := hlen ▸ hk
  rw [hvalues k hlt, List.getElem?_eq_getElem hlt]
  rfl

theorem FormPayload.written {fc : Byte} {p : List Byte} {payload : Payload} (h : FormPayload s fc payload)
    (hp : payload = .bytes p) (h10 : fc = 0x10) {k : Nat} (hk : k < s.wcount.toNat) :
    (s.mem.read .wdata k).isSome = true := by
  cases h with
  | read | readDefault | single => exact absurd h10 (by decide)
  | list count => exact listPayload_written hp hk

/-- The pipeline on the payload of a form has the outcome of steps 4 and 5, if the rule's illegal operands are those
that fail the device check or the payload. -/
theorem verdict_names_buildWith (hop : w.extractLsb 7 0 = 0x10) {fc : Byte} (hfc : w.extractLsb 15 8 = fc)
    (hclear : w &&& reservedMask w = 0) {payload : Payload} (hform : FormPayload { s with cmd := w } fc payload)
    (hillegal : buildOperandsIllegal w s = true ↔ devField w > 247 ∨ payload = .invalid) :
    (verdict w s).Names w s (buildWith (devField w) fc (regField w) payload { s with cmd := w }) := by
  subst hfc
  by_cases hdev : devField w > 247
  · rw [verdict_build_of_illegal hop hclear (hillegal.mpr (.inl hdev)), buildWith_of_device_gt hdev]
    exact names_completes rfl
  have hlegal (hne : payload ≠ .invalid) : ¬buildOperandsIllegal w s = true := fun h => (hillegal.mp h).elim hdev hne
  have hdev : devField w ≤ Config.maxDevice := BitVec.not_lt.mp hdev
  cases hp : payload with
  | invalid =>
    rw [verdict_build_of_illegal hop hclear (hillegal.mpr (.inr hp)), buildWith_invalid]
    exact names_completes rfl
  | unwritten i =>
    obtain ⟨h10, hfirst⟩ := hform.firstUnwritten hp
    rw [verdict_build_of_unwritten hop hclear (hlegal (hp ▸ nofun)) h10 hfirst]
    exact buildWith_unwritten hdev _ _ i _
  | bytes p =>
    rw [verdict_build_of_written hop hclear hform.fc_mem (hlegal (hp ▸ nofun)) fun h10 k => hform.written hp h10,
      buildWith_bytes hdev]
    exact names_completes (emit_status _ _)

/-- R200 by the word's fields. -/
theorem buildOperandsIllegal_iff : buildOperandsIllegal w s = true ↔
    (devField w > 247 ∨ (fcField w = 0x03 ∧ cpField w = true) ∧ argField w = 0) ∨
      fcField w = 0x10 ∧ ((s.wcount = 0 ∨ s.wcount > 127) ∨ cpField w = true ∧ argField w ≠ s.wcount.setWidth 16) := by
  simp only [buildOperandsIllegal, Bool.or_eq_true, Bool.and_eq_true, decide_eq_true_eq, beq_iff_eq, bne_iff_ne]
  rfl

theorem readPayload_eq_invalid_iff (count : Half) : readPayload count = .invalid ↔ count = 0 := by
  simp [readPayload]

/-- R128, R129: the checks on a value list, with the count as the field it is. -/
theorem not_listAccepted_iff (count : Option Half) : ¬ListAccepted count s ↔
    (s.wcount = 0 ∨ s.wcount > 127) ∨ ∃ c ∈ count, c ≠ s.wcount.setWidth 16 := by
  have hself : (s.wcount.setWidth 16).toNat = s.wcount.toNat := BitVec.toNat_setWidth_of_le (by decide)
  constructor
  · intro h
    by_contra hgood
    simp only [not_or, not_exists, not_and, not_not] at hgood
    obtain ⟨⟨hne, hle⟩, hcount⟩ := hgood
    exact h ⟨fun hzero => hne (BitVec.eq_of_toNat_eq hzero), Nat.not_lt.mp hle,
      fun c hc => by rw [hcount c hc, hself]⟩
  · rintro (hwcount | ⟨c, hc, hne⟩)
    · exact not_listAccepted_of_wcount hwcount
    · exact fun h => hne (BitVec.eq_of_toNat_eq ((h.counted c hc).trans hself.symm))

/-- R128, R129: an element without a value is no rejection. -/
theorem listPayload_eq_invalid_iff (count : Option Half) : listPayload count s = .invalid ↔ ¬ListAccepted count s := by
  refine ⟨fun h haccepted => ?_, listPayload_of_not_accepted⟩
  cases hread : readCells s.mem.wdata 0 s.wcount.toNat with
  | ok values => cases h.symm.trans (listPayload_of_read haccepted hread)
  | error i => cases h.symm.trans (listPayload_of_read_error haccepted hread)

theorem reservedMask_counted (hop : w.extractLsb 7 0 = 0x10)
    (hfc : w.extractLsb 15 8 = 0x03 ∨ w.extractLsb 15 8 = 0x10) (hcp : w.getLsbD 24 = true) :
    reservedMask w = maskCounted := by
  rcases hfc with hfc | hfc <;> simp only [reservedMask, hop, hfc, hcp] <;> rfl

theorem reservedMask_uncounted (hop : w.extractLsb 7 0 = 0x10)
    (hfc : w.extractLsb 15 8 = 0x03 ∨ w.extractLsb 15 8 = 0x10) (hcp : w.getLsbD 24 = false) :
    reservedMask w = maskUncounted := by
  rcases hfc with hfc | hfc <;> simp only [reservedMask, hop, hfc, hcp] <;> rfl

section
variable (hop : opField w = 0x10)
include hop

theorem verdict_names_buildRd (hfc : fcField w = 0x03) (hcp : cpField w = true) :
    (verdict w s).Names w s (command w s) := by
  refine verdict_names_of_form (decode_form_buildRd hop hfc hcp) (reservedMask_counted hop (.inl hfc) hcp)
    fun hclear => ?_
  refine verdict_names_buildWith hop hfc hclear (.read (argField w)) ?_
  simp [buildOperandsIllegal_iff, hfc, hcp, readPayload_eq_invalid_iff]

theorem verdict_names_buildRdDef (hfc : fcField w = 0x03) (hcp : cpField w = false) :
    (verdict w s).Names w s (command w s) := by
  refine verdict_names_of_form (decode_form_buildRdDef hop hfc hcp) (reservedMask_uncounted hop (.inl hfc) hcp)
    fun hclear => ?_
  refine verdict_names_buildWith hop hfc hclear .readDefault ?_
  simp [buildOperandsIllegal_iff, hfc, hcp, defaultReadPayload]

theorem verdict_names_buildWs (hfc : fcField w = 0x06) : (verdict w s).Names w s (command w s) := by
  have hmask : reservedMask w = maskWs := by
    have hfc : w.extractLsb 15 8 = 0x06 := hfc
    have hop : w.extractLsb 7 0 = 0x10 := hop
    simp [reservedMask, hop, hfc, maskWs]
  refine verdict_names_of_form (decode_form_buildWs hop hfc) hmask fun hclear => ?_
  refine verdict_names_buildWith hop hfc hclear (.single (argField w)) ?_
  simp [buildOperandsIllegal_iff, hfc, singlePayload]

theorem verdict_names_buildWm (hfc : fcField w = 0x10) (hcp : cpField w = true) :
    (verdict w s).Names w s (command w s) := by
  refine verdict_names_of_form (decode_form_buildWm hop hfc hcp) (reservedMask_counted hop (.inr hfc) hcp)
    fun hclear => ?_
  refine verdict_names_buildWith hop hfc hclear (.list (some (argField w))) ?_
  simp [buildOperandsIllegal_iff, hfc, hcp, listPayload_eq_invalid_iff, not_listAccepted_iff]

theorem verdict_names_buildWmImp (hfc : fcField w = 0x10) (hcp : cpField w = false) :
    (verdict w s).Names w s (command w s) := by
  refine verdict_names_of_form (decode_form_buildWmImp hop hfc hcp) (reservedMask_uncounted hop (.inr hfc) hcp)
    fun hclear => ?_
  refine verdict_names_buildWith hop hfc hclear (.list none) ?_
  simp [buildOperandsIllegal_iff, hfc, hcp, listPayload_eq_invalid_iff, not_listAccepted_iff]

theorem verdict_names_build : (verdict w s).Names w s (command w s) := by
  by_cases hfc : fcField w ∈ [0x03, 0x06, 0x10]
  · simp only [List.mem_cons, List.not_mem_nil, or_false] at hfc
    rcases hfc with h03 | h06 | h10
    · cases hcp : cpField w with
      | true => exact verdict_names_buildRd hop h03 hcp
      | false => exact verdict_names_buildRdDef hop h03 hcp
    · exact verdict_names_buildWs hop h06
    · cases hcp : cpField w with
      | true => exact verdict_names_buildWm hop h10 hcp
      | false => exact verdict_names_buildWmImp hop h10 hcp
  · rw [verdict_of_other_fc (List.mem_cons.mpr (.inl hop)) hfc]
    simp only [List.mem_cons, List.not_mem_nil, or_false, not_or] at hfc
    obtain ⟨h03, h06, h10⟩ := hfc
    rw [buildOfAnotherFunctionCodeIsInvalidCommand w s hop h03 h06 h10]
    exact names_completes rfl

end

/-! ## PARSE (steps 6 to 10) -/

theorem readCell_eq_inputByte {k : Nat} (h : (s.mem.read .ibuf k).isSome = true) :
    readCell s.mem.ibuf k = some (inputByte s k) := by
  rw [read_ibuf, Option.isSome_map] at h
  obtain ⟨b, hb⟩ := Option.isSome_iff_exists.mp h
  rw [inputByte, hb, Option.getD_some]

/-- The body of the input: every byte but the last two. -/
def inputBody (s : State) : List Byte := (List.range (s.ilen.toNat - 2)).map (inputByte s)

/-- An input that is all there is its body and its last two bytes. -/
theorem holdsInput_of_written (h2 : 2 ≤ s.ilen.toNat)
    (h : ∀ k, k < s.ilen.toNat → (s.mem.read .ibuf k).isSome = true) :
    HoldsInput s (inputBody s ++ [inputByte s (s.ilen.toNat - 2), inputByte s (s.ilen.toNat - 1)]) := by
  have hbody : readCells s.mem.ibuf 0 (s.ilen.toNat - 2) = .ok (inputBody s) :=
    (readCells_eq_ok_iff _ _ _ _).mpr ⟨by simp [inputBody], fun k hk => by
      rw [Nat.zero_add, readCell_eq_inputByte (h k (by omega))]
      simp [inputBody, hk]⟩
  have hlast : s.ilen.toNat - 2 + 1 = s.ilen.toNat - 1 := by omega
  have hall := readCells_append_two hbody (readCell_eq_inputByte (h _ (by omega)))
    (readCell_eq_inputByte (h _ (by omega)))
  rwa [hlast, Nat.sub_add_cancel h2, ← holdsInput_iff] at hall

/-- R107: the CRC on the wire is the two bytes side by side, the last one high. -/
theorem append_eq_crcOfBytes (lo hi : Byte) : (hi ++ lo : BitVec 16) = crcOfBytes lo hi := by
  rw [crcOfBytes, BitVec.append_def, BitVec.or_comm, BitVec.shiftLeftZeroExtend_eq]
  rfl

/-- R151. -/
theorem decodeReadResponse_status_eq (body : List Byte) (s : State) :
    (decodeReadResponse body s).status = if (body.length - 3) % 2 = 1 then 0x0207 else 0x0004 := by
  unfold decodeReadResponse
  split
  · simp
  · simp

/-- Step 10, and what a form reports past it. -/
theorem ParseForm.names_decodeFrame {i : Instr} {fc : Byte} {decodeFrame : List Byte → State → State}
    (hform : ParseForm i fc decodeFrame) (w : Word) (s₀ : State) {body : List Byte} {n : Nat}
    (hlen : body.length = n - 2) (s : State) :
    (if fc = 0x03 then if (n - 5) % 2 = 1 then .completes 0x0207 else .completes 0x0004
      else .completes 0x0003 : Verdict).Names w s₀ (.next (decodeFrame body s)) := by
  cases hform with
  | read =>
    have hstatus := decodeReadResponse_status_eq body s
    rw [show body.length - 3 = n - 5 by omega] at hstatus
    rw [if_pos rfl]
    split_ifs with hodd
    · exact names_completes (hstatus.trans (if_pos hodd))
    · exact names_completes (hstatus.trans (if_neg hodd))
  | single | list => exact names_completes (decodeWriteResponse_status body s)

/-- The pipeline of a form has the outcome of steps 6 to 10. -/
theorem parseVerdict_names_parseWith {i : Instr} {fc : Byte} {decodeFrame : List Byte → State → State}
    (hform : ParseForm i fc decodeFrame) (w : Word) (s₀ : State) :
    (parseVerdict fc s).Names w s₀ (parseWith fc decodeFrame s) := by
  unfold parseVerdict
  split
  case isTrue hshort =>
    rw [parseWith_of_short hshort]
    exact names_completes rfl
  case isFalse hlong =>
  have h5 : 5 ≤ s.ilen.toNat := Nat.not_lt.mp hlong
  split
  case isTrue hnone => exact parseWith_of_echo_unwritten h5 (by simpa using hnone)
  case isFalse hsome =>
  have hread := readCell_eq_inputByte (Option.isSome_iff_ne_none.mpr hsome)
  split
  case isTrue hne =>
    rw [parseWith_of_echo_ne h5 hread hne]
    exact names_completes rfl
  case isFalse hecho =>
  rw [not_not.mp hecho] at hread
  rw [parseWith_of_echo h5 hread]
  split
  case h_1 k hfirst => exact checkCrc_of_firstUnwritten h5 (firstUnwritten?_eq_some_iff.mp hfirst)
  case h_2 hfirst =>
  rw [checkCrc_of_holdsInput (holdsInput_of_written (by omega) (firstUnwritten?_eq_none_iff.mp hfirst)),
    append_eq_crcOfBytes, ← inputBody]
  split
  case isTrue hcrc => exact names_completes rfl
  case isFalse hcrc =>
    rw [if_pos (not_not.mp hcrc)]
    exact hform.names_decodeFrame w s₀ (by simp [inputBody]) _

/-- A word of a PARSE form. -/
theorem verdict_names_parseForm {i : Instr} {fc : Byte} {decodeFrame : List Byte → State → State}
    (hform : ParseForm i fc decodeFrame) (hop : w.extractLsb 7 0 = 0x20) (hfc : w.extractLsb 15 8 = fc) :
    (verdict w s).Names w s (command w s) := by
  refine verdict_names_of_form (hform.decode_eq hop hfc) (by simp [reservedMask, hop, maskP]) fun hclear => ?_
  have hverdict : verdict w s = parseVerdict fc s := by
    cases hform with
    | read | single | list => simp [verdict, hop, hclear, hfc]
  rw [hverdict, hform.exec_eq]
  exact parseVerdict_names_parseWith (s := { s with cmd := w }) hform w s

theorem verdict_names_parse (hop : opField w = 0x20) : (verdict w s).Names w s (command w s) := by
  by_cases hfc : fcField w ∈ [0x03, 0x06, 0x10]
  · simp only [List.mem_cons, List.not_mem_nil, or_false] at hfc
    rcases hfc with h03 | h06 | h10
    · exact verdict_names_parseForm .read hop h03
    · exact verdict_names_parseForm .single hop h06
    · exact verdict_names_parseForm .list hop h10
  · rw [verdict_of_other_fc (List.mem_cons.mpr (.inr (List.mem_singleton.mpr hop))) hfc]
    simp only [List.mem_cons, List.not_mem_nil, or_false, not_or] at hfc
    obtain ⟨h03, h06, h10⟩ := hfc
    rw [parseOfAnotherFunctionCodeIsInvalidCommand w s hop h03 h06 h10]
    exact names_completes rfl

end

/-! ## Every command word -/

theorem verdict_names_command (w : Word) (s : State) : (verdict w s).Names w s (command w s) := by
  by_cases hop : opField w ∈ [0x00, 0x01, 0x02, 0x03, 0x10, 0x20]
  · simp only [List.mem_cons, List.not_mem_nil, or_false] at hop
    rcases hop with h00 | h01 | h02 | h03 | h10 | h20
    · exact verdict_names_nop h00
    · exact verdict_names_crcInit h01
    · exact verdict_names_crcUpdate h02
    · exact verdict_names_crcBlock h03
    · exact verdict_names_build h10
    · exact verdict_names_parse h20
  · exact verdict_names_of_other_op hop

/-- Settles O36: the opcodes one by one, each along the steps that concern it. -/
theorem firstCauseDecidesTheOutcome : Obligations.FirstCauseDecidesTheOutcome := verdict_names_command

end Sys2Proof.Machine
end

section
/-! PROOFS. The statement about the reset input (spec/70_reset_and_hazards.md R230). -/

namespace Sys2Proof.Machine

theorem act_reset (s : State) : act .reset s = .next (applyReset s) := rfl

theorem applyReset_read (s : State) (b : Buffer) (i : Nat) : (applyReset s).mem.read b i = none := by
  rw [applyReset_mem, empty_read]

/-- Settles O43: the registers and the marks field by field, the buffers because the reset input empties the memory. -/
theorem resetInputRestoresTheResetValues : Obligations.ResetInputRestoresTheResetValues := fun s =>
  ⟨applyReset s, act_reset s, applyReset_cmd s, applyReset_status s, applyReset_crc s, applyReset_ilen s,
    applyReset_wcount s, applyReset_olen s, applyReset_rcount s, applyReset_read s, applyReset_faultMark s,
    applyReset_refusalMark s⟩

end Sys2Proof.Machine
end
